-- ==== Sys2Proof/Word.lean ====
section
/-! DEFINITION. The widths of the spec's values (00_scope.md R17): a byte, a nibble, a transfer word, a line level. -/

namespace Sys2Proof

/-- An opcode, a data byte, a raw status byte or an expander byte (R17). -/
abbrev Byte := BitVec 8

/-- What one transfer moves on a 4-bit path (R17). -/
abbrev Nibble := BitVec 4

/-- The word `{rs, rw, db[7:0]}` in which encodings are tabulated (R81). -/
abbrev TransferWord := BitVec 10

/-- The level of a one-bit line; `true` is 1, the electrical high level (R13). -/
abbrev Level := Bool

/-- A serial-bus address, in the 7-bit default reading of R8. -/
abbrev BusAddr := BitVec 7

end Sys2Proof
end

