-- ==== Sys2Proof/Config.lean ====
section
/-! DEFINITION. The configuration record `cfg` (00_scope.md R6 to R9, 10_state.md R21) and the model's free values. -/

namespace Sys2Proof

/-- The transport variant bound for the engine's life (R6). -/
inductive Transport where
  | gpio4
  | gpio8
  | i2c
  deriving DecidableEq, Repr

/-- How an operation of the `T_INSTR` class is completed (R9). -/
inductive WaitMode where
  | fixed
  | poll
  deriving DecidableEq, Repr

/-- Where each protocol line stands in the 8-bit expander register (R8). -/
structure ExpanderMap where
  rs  : Fin 8
  rw  : Fin 8
  e   : Fin 8
  bl  : Fin 8
  db4 : Fin 8
  db5 : Fin 8
  db6 : Fin 8
  db7 : Fin 8
  deriving DecidableEq, Repr

/-- The eight positions, in the order R8 lists the lines. -/
def ExpanderMap.positions (m : ExpanderMap) : List (Fin 8) :=
  [m.rs, m.rw, m.e, m.bl, m.db4, m.db5, m.db6, m.db7]

/-- The default map of R8. PRESUMED (log 3): general knowledge G8. -/
def ExpanderMap.usual : ExpanderMap :=
  { rs := 0, rw := 1, e := 2, bl := 3, db4 := 4, db5 := 5, db6 := 6, db7 := 7 }

/-- The immutable configuration record (R21). A field that R21 calls meaningless for a transport is
held and read by no operation on that transport. -/
structure Cfg where
  transport   : Transport
  hasRW       : Bool
  i2cReadable : Bool
  tInstr      : Nat
  i2cAddr     : BusAddr
  map         : ExpanderMap
  backlight   : Bool
  waitMode    : WaitMode
  deriving DecidableEq, Repr

/-- The configuration of `State.reset`. DESIGN CHOICE (log 2): the spec takes `cfg` from the constructor's
caller; this is the one of 95_test_vectors.md P1. -/
def Cfg.initial : Cfg :=
  { transport := .gpio4, hasRW := true, i2cReadable := false, tInstr := 53, i2cAddr := 0#7,
    map := .usual, backlight := true, waitMode := .fixed }

namespace Config

/-- FREE VALUE (log 4): the level the environment answers to the `n`-th answer drawn, where no answer is
scripted. "any value", U1 of 93_implementation_defined.md; R14. -/
opaque freeLevel : Nat → Level

/-- FREE VALUE (log 4): the byte the environment answers to the `n`-th answer drawn, where no answer is
scripted (R14, U1). -/
opaque freeByte : Nat → Byte

end Config

end Sys2Proof
end

