-- ==== Sys2Proof/Syntax.lean ====
section
/-! DEFINITION. The operations a caller can present (30_encoding.md R92): one constructor per row of
spec/opcode_table.json. -/

namespace Sys2Proof

/-- The twelve operations. Addresses are unbounded integers and data bytes are 8 bits by type (D28). -/
inductive Instr where
  /-- CLEAR, `clear()`, R111 and R213. -/
  | clear
  /-- HOME, `home()`, R112 and R214. -/
  | home
  /-- ENTRY, `entryMode(increment, shift)`, R113 and R215. -/
  | entry (increment shift : Bool)
  /-- DISPLAY, `displayControl(on, cursorOn, blink)`, R114 and R216. -/
  | display (on cursorOn blink : Bool)
  /-- SHIFT, `shift(moveCursor, moveRight)`, R115 and R217. -/
  | shift (moveCursor moveRight : Bool)
  /-- FUNCSET, `functionSet(eightBit, twoLine, font5x10)`, R116 and R218. -/
  | funcset (eightBit twoLine font5x10 : Bool)
  /-- SETCG, `setCgramAddress(addr)`, R117 and R219. -/
  | setcg (addr : Int)
  /-- SETDD, `setDdramAddress(addr)`, R118 and R219. -/
  | setdd (addr : Int)
  /-- WRDATA, `writeData(v)`, R119 and R220. -/
  | wrdata (v : Byte)
  /-- RDDATA, `readData() -> byte`, R121 and R220. -/
  | rddata
  /-- RDSTAT, `readStatus() -> StatusReadout`, R120 and R221. -/
  | rdstat
  /-- INIT, `initManually()`, R240 to R244. -/
  | init
  deriving DecidableEq, Repr

/-- The row's name in spec/opcode_table.json (R92). -/
def Instr.mnemonic : Instr → String
  | .clear => "CLEAR"
  | .home => "HOME"
  | .entry _ _ => "ENTRY"
  | .display _ _ _ => "DISPLAY"
  | .shift _ _ => "SHIFT"
  | .funcset _ _ _ => "FUNCSET"
  | .setcg _ => "SETCG"
  | .setdd _ => "SETDD"
  | .wrdata _ => "WRDATA"
  | .rddata => "RDDATA"
  | .rdstat => "RDSTAT"
  | .init => "INIT"

/-- Whether the operation reads a controller port (R50). -/
def Instr.isRead : Instr → Bool
  | .rddata => true
  | .rdstat => true
  | .clear => false
  | .home => false
  | .entry _ _ => false
  | .display _ _ _ => false
  | .shift _ _ => false
  | .funcset _ _ _ => false
  | .setcg _ => false
  | .setdd _ => false
  | .wrdata _ => false
  | .init => false

end Sys2Proof
end

