-- ==== Sys2Proof/WellFormed.lean ====
section
/-! DEFINITION. Well-formedness: of an operation (its operands have an encoding, 30_encoding.md R85) and of a
configuration (10_state.md R21). -/

namespace Sys2Proof

/-- The operands fit the encoding: CGRAM addresses 0..63, DDRAM addresses 0..127 (R85). An operation that
is not well formed can still be presented: it raises (R251). -/
def Instr.wf : Instr → Bool
  | .clear => true
  | .home => true
  | .entry _ _ => true
  | .display _ _ _ => true
  | .shift _ _ => true
  | .funcset _ _ _ => true
  | .setcg a => decide (0 ≤ a) && decide (a ≤ 63)
  | .setdd a => decide (0 ≤ a) && decide (a ≤ 127)
  | .wrdata _ => true
  | .rddata => true
  | .rdstat => true
  | .init => true

/-- The bound adapter can read (R9): an RW line on a GPIO variant, a readable expander on I2C. -/
def Cfg.canRead (c : Cfg) : Bool :=
  match c.transport with
  | .gpio4 => c.hasRW
  | .gpio8 => c.hasRW
  | .i2c => c.i2cReadable

/-- No two protocol lines share an expander bit (R8: the map is injective; the type gives 0..7). -/
def ExpanderMap.injective (m : ExpanderMap) : Bool := decide m.positions.Nodup

/-- R21: `POLL` requires a readable adapter, and the map is injective. The map is checked on I2C only,
the one transport where it is meaningful (DEDUCED, log 5). -/
def Cfg.wf (c : Cfg) : Bool :=
  (decide (c.waitMode = .fixed) || c.canRead) &&
  (!decide (c.transport = .i2c) || c.map.injective)

end Sys2Proof
end

