-- ==== Sys2Proof/Decode.lean ====
section
/-! DEFINITION. 30_encoding.md: the opcode bytes, the decoder of transfer words (total, rejecting by name) and,
after it, the encoder. -/

namespace Sys2Proof

/-- Why a word is no operation. -/
inductive DecodeError where
  /-- One of the 38 command bytes the encoder never emits (R90): a decoder rejects them. -/
  | reservedCommand (b : Byte)
  /-- The 16-bit container has a bit set above bit 9, so it is no 10-bit transfer word (R81). -/
  | notTenBits (w : BitVec 16)
  deriving DecidableEq, Repr

/-! ## The opcode bytes of R82 (formats) with the bases of D5

All bases but display control's and all flag positions are the spec's general knowledge: PRESUMED (log 1). -/

/-- `b2i(c) << p` (R83). -/
def flagBit (c : Bool) (p : Nat) : Byte := (BitVec.ofBool c).setWidth 8 <<< p

/-- `FIXED`, `0000 0001` (R111). -/
def opClear : Byte := 0x01#8

/-- `FIXED`, `0000 0010` (R112). -/
def opHome : Byte := 0x02#8

/-- `FLAG2`, `0000 01IS` (R113). -/
def opEntry (increment shift : Bool) : Byte := 0x04#8 ||| flagBit increment 1 ||| flagBit shift 0

/-- `FLAG3`, `0000 1DCB` (R114). -/
def opDisplay (on cursorOn blink : Bool) : Byte :=
  0x08#8 ||| flagBit on 2 ||| flagBit cursorOn 1 ||| flagBit blink 0

/-- `FLAG2Z`, `0001 TR00`; the target bit is the inverse of `moveCursor` (R115). -/
def opShift (moveCursor moveRight : Bool) : Byte :=
  0x10#8 ||| flagBit (!moveCursor) 3 ||| flagBit moveRight 2

/-- `FLAG3Z`, `001L NF00` (R116). -/
def opFuncset (eightBit twoLine font5x10 : Bool) : Byte :=
  0x20#8 ||| flagBit eightBit 4 ||| flagBit twoLine 3 ||| flagBit font5x10 2

/-- `ADDR6`, `01AA AAAA`: `0x40 | addr` (R117). -/
def opSetcg (addr : Int) : Byte := 0x40#8 ||| BitVec.ofInt 8 addr

/-- `ADDR7`, `1AAA AAAA`: `0x80 | addr` (R118). -/
def opSetdd (addr : Int) : Byte := 0x80#8 ||| BitVec.ofInt 8 addr

/-! ## The decoder (R89, R90) -/

/-- A command byte to its operation, by its highest set bit (R89); the 38 reserved bytes are rejected (R90). -/
def decodeCommand (b : Byte) : Except DecodeError Instr :=
  if b.getLsbD 7 then .ok (.setdd ((b.extractLsb' 0 7).toNat : Int))
  else if b.getLsbD 6 then .ok (.setcg ((b.extractLsb' 0 6).toNat : Int))
  else if b.getLsbD 5 then
    if b.extractLsb' 0 2 = 0#2 then .ok (.funcset (b.getLsbD 4) (b.getLsbD 3) (b.getLsbD 2))
    else .error (.reservedCommand b)
  else if b.getLsbD 4 then
    if b.extractLsb' 0 2 = 0#2 then .ok (.shift (!b.getLsbD 3) (b.getLsbD 2))
    else .error (.reservedCommand b)
  else if b.getLsbD 3 then .ok (.display (b.getLsbD 2) (b.getLsbD 1) (b.getLsbD 0))
  else if b.getLsbD 2 then .ok (.entry (b.getLsbD 1) (b.getLsbD 0))
  else if b = opHome then .ok .home
  else if b = opClear then .ok .clear
  else .error (.reservedCommand b)

/-- The data or opcode byte of a transfer word, bits 7:0 (R81). -/
def TransferWord.byte (w : TransferWord) : Byte := w.extractLsb' 0 8

/-- A transfer word to its operation (R81, R82): RS is bit 9, RW is bit 8. The eight data bits of a read are
returned by the controller, not driven, so they decode whatever they are (R87). A row marked pseudo (INIT) is
skipped, as its note in spec/opcode_table.json says. -/
def decode (w : TransferWord) : Except DecodeError Instr :=
  match w.getLsbD 9, w.getLsbD 8 with
  | false, false => decodeCommand (TransferWord.byte w)
  | true, false => .ok (.wrdata (TransferWord.byte w))
  | false, true => .ok .rdstat
  | true, true => .ok .rddata

/-- The decoder over a 16-bit container: a transfer word in its low ten bits, zeros above. -/
def decodeContainer (w : BitVec 16) : Except DecodeError Instr :=
  if w.extractLsb' 10 6 = 0#6 then decode (w.extractLsb' 0 10) else .error (.notTenBits w)

/-- What the decoder reads from an instruction whose bits are `w`, numbered as spec/opcode_table.json numbers
them (one 10-bit word `{rs, rw, db7..db0}`, bit 0 is DB0). -/
def decodeTableWord (nbits w : Nat) : Option Instr :=
  if w < 2 ^ min nbits 16 then
    match decodeContainer (BitVec.ofNat 16 w) with
    | .ok i => some i
    | .error _ => none
  else none

/-! ## The encoder -/

/-- `{rs, rw, b}` (R81). -/
def transferWord (rs rw : Level) (b : Byte) : TransferWord := BitVec.ofBool rs ++ BitVec.ofBool rw ++ b

/-- The transfer word of an operation: none where an address is out of range (R85), and none for
`initManually`, which is a sequence and has no word of its own (R93). A read drives no data line, so its eight
data bits are written as 0 (DESIGN CHOICE, log 7). -/
def encode (i : Instr) : Option TransferWord :=
  if i.wf then
    match i with
    | .clear => some (transferWord false false opClear)
    | .home => some (transferWord false false opHome)
    | .entry increment shift => some (transferWord false false (opEntry increment shift))
    | .display on cursorOn blink => some (transferWord false false (opDisplay on cursorOn blink))
    | .shift moveCursor moveRight => some (transferWord false false (opShift moveCursor moveRight))
    | .funcset eightBit twoLine font5x10 =>
        some (transferWord false false (opFuncset eightBit twoLine font5x10))
    | .setcg addr => some (transferWord false false (opSetcg addr))
    | .setdd addr => some (transferWord false false (opSetdd addr))
    | .wrdata v => some (transferWord true false v)
    | .rddata => some (transferWord true true 0x00#8)
    | .rdstat => some (transferWord false true 0x00#8)
    | .init => none
  else none

/-- One transfer, as the controller's pins see it at the enable pulse. On a 4-bit path the nibble rides on
DB7..DB4 and the controller's DB3..DB0 are not driven: they are written as 0 here (R57, R58). -/
structure Transfer where
  rs : Level
  rw : Level
  db : Byte
  deriving DecidableEq, Repr

/-- The byte carried on a 4-bit path: high nibble first, same RS and RW (R91). On GPIO8: one transfer. -/
def splitByte (t : Transport) (rs rw : Level) (b : Byte) : List Transfer :=
  match t with
  | .gpio8 => [⟨rs, rw, b⟩]
  | .gpio4 => [⟨rs, rw, b.extractLsb' 4 4 ++ 0#4⟩, ⟨rs, rw, b.extractLsb' 0 4 ++ 0#4⟩]
  | .i2c => [⟨rs, rw, b.extractLsb' 4 4 ++ 0#4⟩, ⟨rs, rw, b.extractLsb' 0 4 ++ 0#4⟩]

/-- The transfers of `initManually` (R241, R242, R243): three priming writes and the committing write. -/
def initTransfers (t : Transport) : List Transfer :=
  match t with
  | .gpio8 => [⟨false, false, 0x30#8⟩, ⟨false, false, 0x30#8⟩, ⟨false, false, 0x30#8⟩, ⟨false, false, 0x30#8⟩]
  | .gpio4 => [⟨false, false, 0x30#8⟩, ⟨false, false, 0x30#8⟩, ⟨false, false, 0x30#8⟩, ⟨false, false, 0x20#8⟩]
  | .i2c => [⟨false, false, 0x30#8⟩, ⟨false, false, 0x30#8⟩, ⟨false, false, 0x30#8⟩, ⟨false, false, 0x20#8⟩]

/-- The transfers an operation is carried by on a transport, its completion wait apart. -/
def encodeTransfers (t : Transport) (i : Instr) : Option (List Transfer) :=
  match encode i with
  | some w => some (splitByte t (w.getLsbD 9) (w.getLsbD 8) (TransferWord.byte w))
  | none => if i = .init then some (initTransfers t) else none

/-! ## The opcode table as rows -/

/-- One row of spec/opcode_table.json: a word `w` is in the row when `w &&& mask = pattern`. -/
structure OpcodeRow where
  mnemonic : String
  mask     : TransferWord
  pattern  : TransferWord
  deriving DecidableEq, Repr

/-- A word is in a row. -/
def OpcodeRow.holds (r : OpcodeRow) (w : TransferWord) : Bool := decide (w &&& r.mask = r.pattern)

/-- The eleven rows that are not pseudo. -/
def opcodeRows : List OpcodeRow :=
  [⟨"CLEAR", 0x3FF#10, 0x001#10⟩, ⟨"HOME", 0x3FF#10, 0x002#10⟩, ⟨"ENTRY", 0x3FC#10, 0x004#10⟩,
   ⟨"DISPLAY", 0x3F8#10, 0x008#10⟩, ⟨"SHIFT", 0x3F3#10, 0x010#10⟩, ⟨"FUNCSET", 0x3E3#10, 0x020#10⟩,
   ⟨"SETCG", 0x3C0#10, 0x040#10⟩, ⟨"SETDD", 0x380#10, 0x080#10⟩, ⟨"WRDATA", 0x300#10, 0x200#10⟩,
   ⟨"RDSTAT", 0x300#10, 0x100#10⟩, ⟨"RDDATA", 0x300#10, 0x300#10⟩]

end Sys2Proof
end

