-- ==== Sys2Proof/Machine/State.lean ====
section
/-! DEFINITION. The engine's state `(cfg, x, dir)` (10_state.md R20 to R27), the values its operations make and
return, its errors (60_exceptions.md R250 to R252), and the model's own record of calls, answers and events. -/

namespace Sys2Proof.Machine

/-! ## Lines, directions, events -/

/-- The line names of R22. -/
inductive Line where
  | rs
  | rw
  | e
  | db (k : Fin 8)
  deriving DecidableEq, Repr

/-- The direction of a data line (R23): driven by the engine, or released. -/
inductive Dir where
  | out
  | inp
  deriving DecidableEq, Repr

/-- The event alphabet of R13. -/
inductive Event where
  /-- `InitOut(l)` -/
  | initOut (l : Line)
  /-- `InitIn(l)` -/
  | initIn (l : Line)
  /-- `Set(l, b)` -/
  | set (l : Line) (b : Level)
  /-- `Get(l) -> b` -/
  | get (l : Line) (b : Level)
  /-- `BW(a, v)` -/
  | bw (a : BusAddr) (v : Byte)
  /-- `BR(a) -> v` -/
  | br (a : BusAddr) (v : Byte)
  /-- `Delay(n)`, in microseconds -/
  | delay (n : Nat)
  deriving DecidableEq, Repr

/-! ## Values that are not state (R28) -/

/-- COMMAND or DATA (R50). -/
inductive RegisterSelect where
  | command
  | data
  deriving DecidableEq, Repr

/-- The delay classes of R122 and R191 an encoded operation can have. -/
inductive DelayClass where
  /-- `T_CLEAR_HOME` -/
  | clearHome
  /-- `T_INSTR` -/
  | instr
  /-- `T_POLL` -/
  | poll
  deriving DecidableEq, Repr

/-- `Instruction` of R80. It carries the delay class; `minDelayMicros` is computed from it (DEDUCED, log 8:
R211 needs the class back, and two classes may have one number). -/
structure Instruction where
  opcode         : Byte
  registerSelect : RegisterSelect
  delayClass     : DelayClass
  deriving DecidableEq, Repr

/-- `StatusReadout` of R86. -/
structure StatusReadout where
  busy           : Bool
  addressCounter : BitVec 7
  deriving DecidableEq, Repr

/-- What an operation returns (R15): nothing, a data byte or a status readout. -/
inductive Value where
  | absent
  | byte (v : Byte)
  | status (r : StatusReadout)
  deriving DecidableEq, Repr

/-! ## Errors, refusals, outcomes -/

/-- The two address regions of the set-address operations (R53, R251). -/
inductive Region where
  | cgram
  | ddram
  deriving DecidableEq, Repr

/-- The engine's errors, a closed taxonomy (R250). Each is RAISED as an operation's outcome in a next state
(R254, R256, `State.raise`): `exec` and `step` never answer `Outcome.fault`, since the engine goes on (P3 of
95_test_vectors.md). Safe: the state is the one the spec gives. -/
inductive Fault where
  /-- ConfigurationError 1.1: SETCG or SETDD with an address out of range (R117, R118, R251). Safe. -/
  | addressOutOfRange (region : Region) (addr : Int)
  /-- ConfigurationError 1.2: RDDATA or RDSTAT on a GPIO variant without an RW line (R144, R162, R251). Safe. -/
  | readOnWriteOnlyWiring
  /-- UnsupportedOperationError 2.1: RDDATA or RDSTAT on a write-only expander (R174, R252). Safe. -/
  | readOnWriteOnlyExpander
  deriving DecidableEq, Repr

/-- Where the model gives no meaning. -/
inductive Refusal where
  /-- `exec`, for an instruction without a meaning; no arm answers it. Safe. -/
  | notModelled (mnemonic : String)
  /-- `exec`, for an operation presented while another is in flight (R11, R288, U3: refuse). Safe: `step` never
  presents one. -/
  | operationInFlight
  /-- `step`, for one of the 38 reserved command bytes presented as a word (R90, U13: refuse). Safe. -/
  | reservedCommandByte (b : Byte)
  /-- `step`, for a presented 16-bit container that is no 10-bit transfer word (R81). Safe. -/
  | notATransferWord (w : BitVec 16)
  /-- `construct`, for an ill-formed configuration (R21, U16: refuse); and `step`, for a poll loop on an adapter
  that cannot read, which only such a configuration has (R9, R253). Safe. -/
  | illFormedConfiguration
  /-- `writeNibble` and `readNibble` on GPIO8, which has no nibble primitives (R164, U20: refuse). No instruction
  reaches it. Safe. -/
  | noNibblePrimitive
  deriving DecidableEq, Repr

/-- The outcome of an operation (R15), its trace apart (`State.opTrace`). -/
inductive OpOutcome where
  | ok (v : Value)
  | error (f : Fault)
  deriving DecidableEq, Repr

/-! ## State -/

/-- The latches `x` (R23, R24). A line the configuration does not own keeps the value it has before construction
(DESIGN CHOICE, log 14). -/
@[ext]
structure Latches where
  /-- `x[RS]` -/
  rs   : Level
  /-- `x[RW]`, owned on a GPIO variant when `cfg.hasRW` -/
  rw   : Level
  /-- `x[E]` -/
  e    : Level
  /-- `x[DB0]` to `x[DB7]` -/
  db   : Vector Level 8
  /-- `x[XREG]`, the shadow of the expander's output register (I2C) -/
  xreg : Byte
  deriving DecidableEq, Repr

/-- What the caller presents next (R10): an operation with its arguments, or the operation a transfer word
stands for, in a 16-bit container (DESIGN CHOICE, log 9). -/
inductive Call where
  | op (i : Instr)
  | word (w : BitVec 16)
  deriving DecidableEq, Repr

/-- The engine's state `(cfg, x, dir)` (R20), then the model's own fields. -/
@[ext]
structure State where
  /-- The configuration, immutable (R21). -/
  cfg        : Cfg
  /-- The latch file or the shadow byte (R23, R24). -/
  x          : Latches
  /-- The direction of the data lines (R23). -/
  dir        : Vector Dir 8
  /-- Model's own: the operation in its poll loop, by the value it will return (R197); `none`, the engine is
  idle (R27, R30). -/
  inFlight   : Option Value
  /-- Model's own: the outcome the last ended operation gave its caller (R15, R28). -/
  outcome    : Option OpOutcome
  /-- Model's own: the sticky fault mark R256 allows, the first error raised. -/
  firstError : Option Fault
  /-- Model's own (log 15): every event emitted since construction began, oldest first (R13, R20). -/
  trace      : List Event
  /-- Model's own (log 15): how long `trace` was when the last operation began, so that its own trace can be read. -/
  opStart    : Nat
  /-- The caller's: the operations it still presents, one at a time, in order (R10, R64). -/
  calls      : List Call
  /-- The environment's: scripted answers to `Get`, next first (R14). -/
  levels     : List Level
  /-- The environment's: scripted answers to `BR`, next first (R14). -/
  bytes      : List Byte
  /-- The environment's: how many answers have been drawn, the index of the next free value (R14). -/
  draws      : Nat
  deriving DecidableEq, Repr

/-- The events of the last operation (R13, R15). -/
def State.opTrace (s : State) : List Event := s.trace.drop s.opStart

/-- The machine after its only reset, construction (R36, R280), with the configuration `Cfg.initial` (log 2) and
the construction trace of V14, first row. Nothing is presented and no answer is scripted. -/
def State.reset : State :=
  { cfg := Cfg.initial
    x := { rs := false, rw := false, e := false, db := Vector.replicate 8 false, xreg := 0x00#8 }
    dir := Vector.replicate 8 Dir.out
    inFlight := none
    outcome := none
    firstError := none
    trace :=
      [.initOut .e, .set .e false, .initOut .rs, .set .rs false, .initOut .rw, .set .rw false,
       .initOut (.db 4), .set (.db 4) false, .initOut (.db 5), .set (.db 5) false,
       .initOut (.db 6), .set (.db 6) false, .initOut (.db 7), .set (.db 7) false]
    opStart := 14
    calls := []
    levels := []
    bytes := []
    draws := 0 }

end Sys2Proof.Machine
end

