-- ==== Sys2Proof/Machine/Ops.lean ====
section
/-! DEFINITION. The named operations over the state: the pseudocode primitives of 00_scope.md R18, the timing
constants of R7, and the beginning, the end and the error of an operation (R15, R254 to R260). -/

namespace Sys2Proof.Machine

/-! ## The timing constants (R7, R191), in microseconds -/

/-- `T_SETTLE`. PRESUMED (log 13): the source's time-unit is taken as 1 µs by D7. -/
def tSettle : Nat := 1

/-- `T_PULSE`. PRESUMED (log 13): the source's time-unit is taken as 1 µs by D7. -/
def tPulse : Nat := 1

/-- `T_CLEAR_HOME` -/
def tClearHome : Nat := 1520

/-- `T_POWERUP` -/
def tPowerUp : Nat := 40000

/-- `T_INIT1` -/
def tInit1 : Nat := 4100

/-- `T_INIT2` -/
def tInit2 : Nat := 100

/-- `T_I2C_RD` -/
def tI2cRead : Nat := 4

/-- `T_POLL` -/
def tPoll : Nat := 0

/-! ## Latches -/

/-- The latched level of a line, `x[l]` (R23). -/
def Latches.level (x : Latches) : Line → Level
  | .rs => x.rs
  | .rw => x.rw
  | .e => x.e
  | .db k => x.db[k]

/-- Latch a level. -/
def Latches.latch (x : Latches) (l : Line) (b : Level) : Latches :=
  match l with
  | .rs => { x with rs := b }
  | .rw => { x with rw := b }
  | .e => { x with e := b }
  | .db k => { x with db := x.db.set k b }

/-! ## The primitives of R18 -/

/-- Put one event on the record. -/
def State.emit (ev : Event) (s : State) : State := { s with trace := s.trace ++ [ev] }

/-- `Delay(n)`. `Delay(0)` is no event (R16 (a), R142). -/
def State.delay (n : Nat) (s : State) : State := if n = 0 then s else s.emit (.delay n)

/-- `x[l] <- b`: the `Set` event is emitted even where the latch already holds the level (R142; log 18). -/
def State.setLine (l : Line) (b : Level) (s : State) : State :=
  { s with trace := s.trace ++ [.set l b], x := s.x.latch l b }

/-- `if cfg.hasRW then x[RW] <- b` (R52, R142 step 2). -/
def State.setRW (b : Level) (s : State) : State := if s.cfg.hasRW then s.setLine .rw b else s

/-- `dir[DBk] <- OUT` -/
def State.turnOut (k : Fin 8) (s : State) : State :=
  { s with trace := s.trace ++ [.initOut (.db k)], dir := s.dir.set k .out }

/-- `dir[DBk] <- IN` -/
def State.turnIn (k : Fin 8) (s : State) : State :=
  { s with trace := s.trace ++ [.initIn (.db k)], dir := s.dir.set k .inp }

/-- The level the environment answers to the `n`-th `Get` from now: scripted, or a free value (R14, log 4). -/
def State.answerLevel (s : State) (n : Nat) : Level := s.levels[n]?.getD (Config.freeLevel (s.draws + n))

/-- The byte the environment answers to the `n`-th `BR` from now: scripted, or a free value (R14, log 4). -/
def State.answerByte (s : State) (n : Nat) : Byte := s.bytes[n]?.getD (Config.freeByte (s.draws + n))

/-- `sample(DBk)`: emit `Get(DBk) -> b` and return `b`. -/
def State.sample (k : Fin 8) (s : State) : Level × State :=
  (s.answerLevel 0,
   { s with trace := s.trace ++ [.get (.db k) (s.answerLevel 0)], levels := s.levels.drop 1, draws := s.draws + 1 })

/-- `x[XREG] <- v`: emit `BW(cfg.i2cAddr, v)` and latch `v`. -/
def State.writeXreg (v : Byte) (s : State) : State :=
  { s with trace := s.trace ++ [.bw s.cfg.i2cAddr v], x := { s.x with xreg := v } }

/-- `busread()`: emit `BR(cfg.i2cAddr) -> v` and return `v`. -/
def State.busRead (s : State) : Byte × State :=
  (s.answerByte 0,
   { s with trace := s.trace ++ [.br s.cfg.i2cAddr (s.answerByte 0)], bytes := s.bytes.drop 1, draws := s.draws + 1 })

/-! ## An operation's beginning, end and error -/

/-- An operation begins: its trace starts here and it has no outcome yet (R15). -/
def State.begin (s : State) : State := { s with opStart := s.trace.length, outcome := none }

/-- An operation ends with `ok(trace, v)` (R15). -/
def State.finish (v : Value) (s : State) : State := { s with outcome := some (.ok v), inFlight := none }

/-- TAKING AN EXCEPTION: `raise <Error>(info)` (R18, R254, R256, R259). The outcome is the error; nothing is
saved, no mode changes, control goes back to the caller; the sticky mark keeps the first error (R256). There is
no return from it and no nesting (R260), so no operation stands beside this one. -/
def State.raise (f : Fault) (s : State) : State :=
  { s with outcome := some (.error f), firstError := s.firstError.or (some f) }

/-- Present one operation. Two operations in flight have no meaning (R11, R288): refused. -/
def present (op : State → State) (s : State) : Host.Outcome State Fault Refusal :=
  match s.inFlight with
  | some _ => .refused .operationInFlight
  | none => .next (op s.begin)

/-! ## The error classes and codes (R251, R252) -/

/-- The two error classes of R250. -/
inductive ErrorClass where
  | configurationError
  | unsupportedOperationError
  deriving DecidableEq, Repr

/-- The class of an error (R251, R252). -/
def faultClass : Fault → ErrorClass
  | .addressOutOfRange _ _ => .configurationError
  | .readOnWriteOnlyWiring => .configurationError
  | .readOnWriteOnlyExpander => .unsupportedOperationError

/-- The code `c.s` of an error as the pair `(c, s)` (R251, R252). -/
def faultCode : Fault → Nat × Nat
  | .addressOutOfRange _ _ => (1, 1)
  | .readOnWriteOnlyWiring => (1, 2)
  | .readOnWriteOnlyExpander => (2, 1)

end Sys2Proof.Machine
end

