-- ==== Sys2Proof/Machine/Operands.lean ====
section
/-! DEFINITION. Every operand form: the register select and direction levels (20_memory.md R51, R52), the range
check of an address (30_encoding.md R85), nibbles and bytes (R94), and the expander byte with its inverse
(10_state.md R25). Boolean operands are `flagBit` of Decode.lean (R83); a data byte is used unchanged (R88). -/

namespace Sys2Proof.Machine

/-- The RS level (R51). PRESUMED (log 1): general knowledge G2, decision D3. -/
def rsLevel : RegisterSelect → Level
  | .command => false
  | .data => true

/-- The RW level of a write (R52). -/
def rwWrite : Level := false

/-- The RW level of a read (R52). -/
def rwRead : Level := true

/-- The greatest address a region accepts (R53, R85). -/
def regionTop : Region → Int
  | .cgram => 63
  | .ddram => 127

/-- The range check of a set-address operation (R85, R117, R118): outside the range it raises with the region
and the offending address, and nothing is truncated or wrapped. -/
def checkAddress (region : Region) (addr : Int) : Except Fault Int :=
  if addr < 0 ∨ regionTop region < addr then .error (.addressOutOfRange region addr) else .ok addr

/-- `v[7:4]` (R94 (c)). -/
def highNibble (v : Byte) : Nibble := v.extractLsb' 4 4

/-- `v[3:0]` (R94 (c)). -/
def lowNibble (v : Byte) : Nibble := v.extractLsb' 0 4

/-- `(zext_8(first) << 4) | zext_8(second)` (R94 (d), R146). -/
def joinNibbles (first second : Nibble) : Byte := (first.setWidth 8 <<< 4) ||| second.setWidth 8

/-- A nibble on the lines DB7..DB4: bit `k` of the nibble is on `DB(4+k)` (R57). PRESUMED (log 1): D4, G3. -/
def onHighLines (d : Nibble) : Byte := d.setWidth 8 <<< 4

/-- `b << p` in the expander register. -/
def expanderBit (b : Level) (p : Fin 8) : Byte := (BitVec.ofBool b).setWidth 8 <<< p.val

/-- The expander byte `X(rs, rw, e, d)` (R25). -/
def expanderByte (c : Cfg) (rs rw e : Level) (d : Nibble) : Byte :=
  expanderBit rs c.map.rs ||| expanderBit rw c.map.rw ||| expanderBit e c.map.e |||
  expanderBit c.backlight c.map.bl |||
  expanderBit (d.getLsbD 0) c.map.db4 ||| expanderBit (d.getLsbD 1) c.map.db5 |||
  expanderBit (d.getLsbD 2) c.map.db6 ||| expanderBit (d.getLsbD 3) c.map.db7

/-- `N(v)`, the nibble with `N(v)[k] = v[cfg.map[DB(4+k)]]` (R25). -/
def expanderNibble (c : Cfg) (v : Byte) : Nibble :=
  BitVec.ofBool (v.getLsbD c.map.db7) ++ BitVec.ofBool (v.getLsbD c.map.db6) ++
  BitVec.ofBool (v.getLsbD c.map.db5) ++ BitVec.ofBool (v.getLsbD c.map.db4)

end Sys2Proof.Machine
end

