-- ==== Sys2Proof/Machine/Flags.lean ====
section
/-! DEFINITION. Flags. The engine has none of its own and no operation sets one (10_state.md R29); the one flag it
handles is the controller's busy flag, bit 7 of a status byte, decoded here (30_encoding.md R86). -/

namespace Sys2Proof.Machine

/-- The busy flag of a raw status byte (R29, R86, R197). -/
def busyFlag (s : Byte) : Bool := s.getLsbD 7

/-- The status decode of R86, total on every byte. -/
def decodeStatus (s : Byte) : StatusReadout := { busy := busyFlag s, addressCounter := s.extractLsb' 0 7 }

end Sys2Proof.Machine
end

