-- ==== Sys2Proof/Machine/Encoder.lean ====
section
/-! DEFINITION. The Instruction Encoder (40_instruction_encoder.md): pure, stateless; each operation gives an
`Instruction` or raises (R110). -/

namespace Sys2Proof.Machine

/-- The microseconds of a delay class (R122, R191). -/
def classMicros (c : Cfg) : DelayClass → Nat
  | .clearHome => tClearHome
  | .instr => c.tInstr
  | .poll => tPoll

/-- `minDelayMicros` (R80). -/
def Instruction.minDelayMicros (c : Cfg) (i : Instruction) : Nat := classMicros c i.delayClass

/-- R111 -/
def encodeClear : Instruction := { opcode := opClear, registerSelect := .command, delayClass := .clearHome }

/-- R112 -/
def encodeHome : Instruction := { opcode := opHome, registerSelect := .command, delayClass := .clearHome }

/-- R113 -/
def encodeEntryMode (increment shift : Bool) : Instruction :=
  { opcode := opEntry increment shift, registerSelect := .command, delayClass := .instr }

/-- R114 -/
def encodeDisplayControl (on cursorOn blink : Bool) : Instruction :=
  { opcode := opDisplay on cursorOn blink, registerSelect := .command, delayClass := .instr }

/-- R115 -/
def encodeShift (moveCursor moveRight : Bool) : Instruction :=
  { opcode := opShift moveCursor moveRight, registerSelect := .command, delayClass := .instr }

/-- R116; `eightBit` is not compared with the transport (D27). -/
def encodeFunctionSet (eightBit twoLine font5x10 : Bool) : Instruction :=
  { opcode := opFuncset eightBit twoLine font5x10, registerSelect := .command, delayClass := .instr }

/-- R117 -/
def encodeSetCgramAddress (addr : Int) : Except Fault Instruction :=
  match checkAddress .cgram addr with
  | .ok a => .ok { opcode := opSetcg a, registerSelect := .command, delayClass := .instr }
  | .error f => .error f

/-- R118 -/
def encodeSetDdramAddress (addr : Int) : Except Fault Instruction :=
  match checkAddress .ddram addr with
  | .ok a => .ok { opcode := opSetdd a, registerSelect := .command, delayClass := .instr }
  | .error f => .error f

/-- R119 -/
def encodeWriteData (v : Byte) : Instruction :=
  { opcode := v, registerSelect := .data, delayClass := .instr }

end Sys2Proof.Machine
end

