-- ==== Sys2Proof/Machine/Expander.lean ====
section
/-! DEFINITION. The I2C expander bridge (43_adapter_i2c.md). -/

namespace Sys2Proof.Machine

/-- The three bus writes of a transfer's set-up, assert and de-assert are full expander bytes (R171). -/
def i2cWrite (rs rw e : Level) (d : Nibble) (s : State) : State := s.writeXreg (expanderByte s.cfg rs rw e d)

/-- `writeNibble` (R172). -/
def i2cWriteNibble (rs : RegisterSelect) (d : Nibble) (delayAfter : Nat) (s : State) : State :=
  let s1 := i2cWrite (rsLevel rs) rwWrite false d s
  let s2 := i2cWrite (rsLevel rs) rwWrite true d s1
  let s3 := i2cWrite (rsLevel rs) rwWrite false d s2
  s3.delay delayAfter

/-- Steps 1 to 7 of `readNibble` (R175), the test of step 0 passed. The data bits are released as 1 and the
sample is taken while enable is asserted (C4, D15; log 16). -/
def i2cReadNibble (rs : RegisterSelect) (delayAfter : Nat) (s : State) : Nibble × State :=
  let s1 := i2cWrite (rsLevel rs) rwRead false 0xF#4 s
  let s2 := i2cWrite (rsLevel rs) rwRead true 0xF#4 s1
  let r := s2.busRead
  let s4 := i2cWrite (rsLevel rs) rwRead false 0xF#4 r.2
  (expanderNibble s.cfg r.1, (s4.delay tI2cRead).delay delayAfter)

end Sys2Proof.Machine
end

