-- ==== Sys2Proof/Machine/Gpio.lean ====
section
/-! DEFINITION. The two GPIO Line-Level Adapters (41_adapter_gpio4.md, 42_adapter_gpio8.md). One transfer is
written once, over the adapter's list of data lines; bit `k` of a byte is on `DBk` (20_memory.md R57). -/

namespace Sys2Proof.Machine

/-- The data lines of GPIO4, ascending (R22, R142 step 4). -/
def gpio4Lines : List (Fin 8) := [4, 5, 6, 7]

/-- The data lines of GPIO8, ascending (R22, R161 step 4). -/
def gpio8Lines : List (Fin 8) := [0, 1, 2, 3, 4, 5, 6, 7]

/-- Step 4 of a write for one line (R141; log 18): a released line is turned to output first. -/
def driveLine (k : Fin 8) (b : Level) (s : State) : State :=
  if s.dir[k] = .inp then (s.turnOut k).setLine (.db k) b else s.setLine (.db k) b

/-- Step 4 of a read for one line (R141): a driven line is released. -/
def releaseLine (k : Fin 8) (s : State) : State :=
  if s.dir[k] = .out then s.turnIn k else s

/-- Step 4 of a write, over the lines in order (R142, R161). -/
def driveLines (v : Byte) : List (Fin 8) → State → State
  | [], s => s
  | k :: ks, s => driveLines v ks (driveLine k (v.getLsbD k) s)

/-- Step 4 of a read, over the lines in order (R145, R163). -/
def releaseLines : List (Fin 8) → State → State
  | [], s => s
  | k :: ks, s => releaseLines ks (releaseLine k s)

/-- Step 7a of a read (R145, R147, R163; log 16): sample the lines in order; `r` holds the bits sampled so far. -/
def sampleLines : List (Fin 8) → Byte → State → Byte × State
  | [], r, s => (r, s)
  | k :: ks, r, s =>
    sampleLines ks (r ||| (BitVec.ofBool (s.sample k).1).setWidth 8 <<< k.val) (s.sample k).2

/-- Steps 1 to 3 of a transfer (R142, R145): RS, RW where owned, enable low. -/
def setControl (rs rw : Level) (s : State) : State := ((s.setLine .rs rs).setRW rw).setLine .e false

/-- One write transfer, steps 1 to 9 (R142, R161): `v` holds the levels of the lines. -/
def gpioWrite (lines : List (Fin 8)) (rs : RegisterSelect) (v : Byte) (delayAfter : Nat) (s : State) : State :=
  let s4 := driveLines v lines (setControl (rsLevel rs) rwWrite s)
  let s6 := (s4.delay tSettle).setLine .e true
  let s8 := (s6.delay tPulse).setLine .e false
  s8.delay delayAfter

/-- One read transfer, steps 1 to 10 (R145, R163); the levels sampled are in the lines' own bits. -/
def gpioRead (lines : List (Fin 8)) (rs : RegisterSelect) (delayAfter : Nat) (s : State) : Byte × State :=
  let s4 := releaseLines lines (setControl (rsLevel rs) rwRead s)
  let s6 := (s4.delay tSettle).setLine .e true
  let r := sampleLines lines 0#8 (s6.delay tPulse)
  (r.1, (r.2.setLine .e false).delay delayAfter)

/-- `writeNibble` of GPIO4 (R142). -/
def gpio4WriteNibble (rs : RegisterSelect) (d : Nibble) (delayAfter : Nat) (s : State) : State :=
  gpioWrite gpio4Lines rs (onHighLines d) delayAfter s

/-- Steps 1 to 10 of `readNibble` of GPIO4 (R145), the test of step 0 passed. -/
def gpio4ReadNibble (rs : RegisterSelect) (delayAfter : Nat) (s : State) : Nibble × State :=
  let r := gpioRead gpio4Lines rs delayAfter s
  (highNibble r.1, r.2)

/-- `writeByte` of GPIO8 (R161). -/
def gpio8WriteByte (rs : RegisterSelect) (v : Byte) (delayAfter : Nat) (s : State) : State :=
  gpioWrite gpio8Lines rs v delayAfter s

/-- Steps 1 to 10 of `readByte` of GPIO8 (R163): all eight lines are released and sampled. -/
def gpio8ReadByte (rs : RegisterSelect) (delayAfter : Nat) (s : State) : Byte × State :=
  gpioRead gpio8Lines rs delayAfter s

end Sys2Proof.Machine
end

