-- ==== Sys2Proof/Machine/Driver.lean ====
section
/-! DEFINITION. The Transport-Uniform Driver (45_facade_driver.md R210 to R212), the adapter interface it is
bound to, and the wait policy with the poll loop (44_timing_sequencer.md R195 to R197). -/

namespace Sys2Proof.Machine

/-! ## The bound adapter (R140, R160, R170, R210) -/

/-- Step 0 of every read (R144, R162, R174): the error of an adapter that cannot read. -/
def readError (c : Cfg) : Option Fault :=
  match c.transport with
  | .gpio4 => if c.hasRW then none else some .readOnWriteOnlyWiring
  | .gpio8 => if c.hasRW then none else some .readOnWriteOnlyWiring
  | .i2c => if c.i2cReadable then none else some .readOnWriteOnlyExpander

/-- `writeNibble` of the bound adapter; GPIO8 has none (R164). -/
def writeNibble (rs : RegisterSelect) (d : Nibble) (delayAfter : Nat) (s : State) :
    Host.Outcome State Fault Refusal :=
  match s.cfg.transport with
  | .gpio4 => .next (gpio4WriteNibble rs d delayAfter s)
  | .gpio8 => .refused .noNibblePrimitive
  | .i2c => .next (i2cWriteNibble rs d delayAfter s)

/-- `readNibble` of the bound adapter; GPIO8 has none (R164). -/
def readNibble (rs : RegisterSelect) (delayAfter : Nat) (s : State) :
    Host.Outcome (Nibble × State) Fault Refusal :=
  match s.cfg.transport, readError s.cfg with
  | .gpio8, _ => .refused .noNibblePrimitive
  | .gpio4, some f => .fault f
  | .i2c, some f => .fault f
  | .gpio4, none => .next (gpio4ReadNibble rs delayAfter s)
  | .i2c, none => .next (i2cReadNibble rs delayAfter s)

/-- `writeByte` of the bound adapter: two nibbles, high first, the trailing delay after the second (R143, R173),
or one transfer (R161). -/
def writeByte (rs : RegisterSelect) (v : Byte) (delayAfter : Nat) (s : State) : State :=
  match s.cfg.transport with
  | .gpio4 => gpio4WriteNibble rs (lowNibble v) delayAfter (gpio4WriteNibble rs (highNibble v) 0 s)
  | .gpio8 => gpio8WriteByte rs v delayAfter s
  | .i2c => i2cWriteNibble rs (lowNibble v) delayAfter (i2cWriteNibble rs (highNibble v) 0 s)

/-- `readByte` past step 0: two nibbles, the first read is the high one (R146, R176), or one transfer (R163). -/
def readByteBody (rs : RegisterSelect) (delayAfter : Nat) (s : State) : Byte × State :=
  match s.cfg.transport with
  | .gpio4 =>
    let first := gpio4ReadNibble rs 0 s
    let second := gpio4ReadNibble rs delayAfter first.2
    (joinNibbles first.1 second.1, second.2)
  | .gpio8 => gpio8ReadByte rs delayAfter s
  | .i2c =>
    let first := i2cReadNibble rs 0 s
    let second := i2cReadNibble rs delayAfter first.2
    (joinNibbles first.1 second.1, second.2)

/-- `readByte` of the bound adapter: the capability is tested once, before the first event (R144, R174). -/
def readByte (rs : RegisterSelect) (delayAfter : Nat) (s : State) : Except Fault (Byte × State) :=
  match readError s.cfg with
  | some f => .error f
  | none => .ok (readByteBody rs delayAfter s)

/-! ## Completion (R195, R196) -/

/-- `complete(class)` (R196). In `POLL` mode the `T_INSTR` class enters the poll loop: the operation stays in
flight with the value it will return, and each later step is one status read (DESIGN CHOICE, log 10). -/
def complete (cls : DelayClass) (v : Value) (s : State) : State :=
  match cls with
  | .clearHome => (s.delay tClearHome).finish v
  | .instr =>
    match s.cfg.waitMode with
    | .fixed => (s.delay s.cfg.tInstr).finish v
    | .poll => { s with inFlight := some v }
  | .poll => s.finish v

/-- One iteration of the poll loop (R197): one status read; the loop ends when bit 7 is 0, with no bound, no
timeout and no delay. An adapter that cannot read has an ill-formed configuration (R9, R21). -/
def pollOnce (v : Value) (s : State) : Host.Outcome State Fault Refusal :=
  match readByte .command tPoll s with
  | .error _ => .refused .illFormedConfiguration
  | .ok r => if busyFlag r.1 then .next r.2 else .next (r.2.finish v)

/-! ## The two common paths (R211, R212) -/

/-- `issue(i)` (R211). -/
def issue (i : Instruction) (s : State) : State :=
  complete i.delayClass .absent (writeByte i.registerSelect i.opcode 0 s)

/-- `issue(encode_<op>(args))` where the encoder may raise: then `issue` is never reached (R211). -/
def issueOrRaise (e : Except Fault Instruction) (s : State) : State :=
  match e with
  | .ok i => issue i s
  | .error f => s.raise f

/-- `fetch(rs, class)`, the byte returned through `ret` (R212). -/
def fetch (rs : RegisterSelect) (cls : DelayClass) (ret : Byte → Value) (s : State) : State :=
  match readByte rs 0 s with
  | .ok r => complete cls (ret r.1) r.2
  | .error f => s.raise f

end Sys2Proof.Machine
end

