-- ==== Sys2Proof/Machine/Construct.lean ====
section
/-! DEFINITION. Construction, the engine's only reset (70_reset_and_hazards.md R280, R281; 10_state.md R36). -/

namespace Sys2Proof.Machine

/-- Before construction: nothing emitted, nothing presented. The latch and direction values are overwritten for
every owned line and stay for a line not owned (DESIGN CHOICE, log 14). -/
def notConstructed (c : Cfg) : State :=
  { cfg := c
    x := { rs := false, rw := false, e := false, db := Vector.replicate 8 false, xreg := 0x00#8 }
    dir := Vector.replicate 8 Dir.out
    inFlight := none, outcome := none, firstError := none, trace := [], opStart := 0, calls := []
    levels := [], bytes := [], draws := 0 }

/-- `InitOut(l); Set(l, 0)` for a control line (R281 steps 1 to 3). -/
def constructControl (l : Line) (s : State) : State := (s.emit (.initOut l)).setLine l false

/-- `InitOut(DBk); Set(DBk, 0)` (R281 step 4). -/
def constructData : List (Fin 8) → State → State
  | [], s => s
  | k :: ks, s => constructData ks ((s.turnOut k).setLine (.db k) false)

/-- The construction trace on a GPIO variant (R281). -/
def constructGpio (lines : List (Fin 8)) (s : State) : State :=
  let s2 := constructControl .rs (constructControl .e s)
  constructData lines (if s.cfg.hasRW then constructControl .rw s2 else s2)

/-- The construction trace (R281): no delay, and `initManually` is not called. -/
def constructLines (s : State) : State :=
  match s.cfg.transport with
  | .gpio4 => constructGpio gpio4Lines s
  | .gpio8 => constructGpio gpio8Lines s
  | .i2c => s.writeXreg (expanderByte s.cfg false false false 0x0#4)

/-- Construct the engine: an ill-formed configuration is refused (R21). -/
def construct (c : Cfg) : Host.Outcome State Fault Refusal :=
  if c.wf then
    let s := constructLines (notConstructed c)
    .next { s with opStart := s.trace.length }
  else .refused .illFormedConfiguration

end Sys2Proof.Machine
end

