-- ==== Sys2Proof/Machine/AddressOps.lean ====
section
/-! DEFINITION. The meanings of SETCG and SETDD. -/

namespace Sys2Proof.Machine

/-- `setCgramAddress(addr)` (R219). -/
def execSetcg (addr : Int) (s : State) : Host.Outcome State Fault Refusal :=
  present (issueOrRaise (encodeSetCgramAddress addr)) s

/-- `setDdramAddress(addr)` (R219). -/
def execSetdd (addr : Int) (s : State) : Host.Outcome State Fault Refusal :=
  present (issueOrRaise (encodeSetDdramAddress addr)) s

end Sys2Proof.Machine
end

