-- ==== Sys2Proof/Machine/DataOps.lean ====
section
/-! DEFINITION. The meanings of WRDATA, RDDATA and RDSTAT. -/

namespace Sys2Proof.Machine

/-- `writeData(v)` (R220). -/
def execWrdata (v : Byte) (s : State) : Host.Outcome State Fault Refusal := present (issue (encodeWriteData v)) s

/-- `readData() -> byte` (R220), class `T_INSTR` (R121; log 19). -/
def execRddata (s : State) : Host.Outcome State Fault Refusal := present (fetch .data .instr .byte) s

/-- `readStatus() -> StatusReadout` (R221). -/
def execRdstat (s : State) : Host.Outcome State Fault Refusal :=
  present (fetch .command .poll fun b => .status (decodeStatus b)) s

end Sys2Proof.Machine
end

