-- ==== Sys2Proof/Machine/FixedOps.lean ====
section
/-! DEFINITION. The meanings of CLEAR and HOME. -/

namespace Sys2Proof.Machine

/-- `clear()` (R213). -/
def execClear (s : State) : Host.Outcome State Fault Refusal := present (issue encodeClear) s

/-- `home()` (R214). -/
def execHome (s : State) : Host.Outcome State Fault Refusal := present (issue encodeHome) s

end Sys2Proof.Machine
end

