-- ==== Sys2Proof/Machine/FlagOps.lean ====
section
/-! DEFINITION. The meanings of ENTRY, DISPLAY, SHIFT and FUNCSET. -/

namespace Sys2Proof.Machine

/-- `entryMode(increment, shift)` (R215). -/
def execEntry (increment shift : Bool) (s : State) : Host.Outcome State Fault Refusal :=
  present (issue (encodeEntryMode increment shift)) s

/-- `displayControl(on, cursorOn, blink)` (R216); the three flags are not remembered (R31). -/
def execDisplay (on cursorOn blink : Bool) (s : State) : Host.Outcome State Fault Refusal :=
  present (issue (encodeDisplayControl on cursorOn blink)) s

/-- `shift(moveCursor, moveRight)` (R217). -/
def execShift (moveCursor moveRight : Bool) (s : State) : Host.Outcome State Fault Refusal :=
  present (issue (encodeShift moveCursor moveRight)) s

/-- `functionSet(eightBit, twoLine, font5x10)` (R218); sent over the transport as it is bound (R290). -/
def execFuncset (eightBit twoLine font5x10 : Bool) (s : State) : Host.Outcome State Fault Refusal :=
  present (issue (encodeFunctionSet eightBit twoLine font5x10)) s

end Sys2Proof.Machine
end

