-- ==== Sys2Proof/Machine/PowerUp.lean ====
section
/-! DEFINITION. The meaning of INIT, the power-up reset sequence (46_power_up_sequence.md). -/

namespace Sys2Proof.Machine

/-- The sequence on a 4-bit path (R241, R243), over the path's `writeNibble`. PRESUMED (log 17): the nibbles. -/
def initNibbles (wr : RegisterSelect → Nibble → Nat → State → State) (s : State) : State :=
  let s1 := s.delay tPowerUp
  let s2 := wr .command 0x3#4 tInit1 s1
  let s3 := wr .command 0x3#4 tInit2 s2
  let s4 := wr .command 0x3#4 s.cfg.tInstr s3
  wr .command 0x2#4 s.cfg.tInstr s4

/-- The sequence on GPIO8 (R242). PRESUMED (log 17): the byte. -/
def initBytes (s : State) : State :=
  let s1 := s.delay tPowerUp
  let s2 := gpio8WriteByte .command 0x30#8 tInit1 s1
  let s3 := gpio8WriteByte .command 0x30#8 tInit2 s2
  let s4 := gpio8WriteByte .command 0x30#8 s.cfg.tInstr s3
  gpio8WriteByte .command 0x30#8 s.cfg.tInstr s4

/-- `initManually()` up to its return; it never polls (R244). -/
def initManually (s : State) : State :=
  match s.cfg.transport with
  | .gpio4 => initNibbles gpio4WriteNibble s
  | .gpio8 => initBytes s
  | .i2c => initNibbles i2cWriteNibble s

/-- `initManually()` (R240). -/
def execInit (s : State) : Host.Outcome State Fault Refusal := present (fun s' => (initManually s').finish .absent) s

end Sys2Proof.Machine
end

