-- ==== Sys2Proof/Machine/Dispatch.lean ====
section
/-! DEFINITION. One arm per operation. -/

namespace Sys2Proof.Machine

def exec (i : Instr) (s : State) : Host.Outcome State Fault Refusal :=
  match i with
  | .clear => Sys2Proof.Machine.execClear s
  | .home => Sys2Proof.Machine.execHome s
  | .entry increment shift => Sys2Proof.Machine.execEntry increment shift s
  | .display on cursorOn blink => Sys2Proof.Machine.execDisplay on cursorOn blink s
  | .shift moveCursor moveRight => Sys2Proof.Machine.execShift moveCursor moveRight s
  | .funcset eightBit twoLine font5x10 => Sys2Proof.Machine.execFuncset eightBit twoLine font5x10 s
  | .setcg addr => Sys2Proof.Machine.execSetcg addr s
  | .setdd addr => Sys2Proof.Machine.execSetdd addr s
  | .wrdata v => Sys2Proof.Machine.execWrdata v s
  | .rddata => Sys2Proof.Machine.execRddata s
  | .rdstat => Sys2Proof.Machine.execRdstat s
  | .init => Sys2Proof.Machine.execInit s

end Sys2Proof.Machine
end

