-- ==== Sys2Proof/Machine/Fetch.lean ====
section
/-! DEFINITION. How a step takes the next operation from what the caller presents (00_scope.md R10; log 9). -/

namespace Sys2Proof.Machine

/-- The operation a call stands for; a word is decoded, and a reserved one refused (R90). -/
def callInstr : Call → Except Refusal Instr
  | .op i => .ok i
  | .word w =>
    match decodeContainer w with
    | .ok i => .ok i
    | .error (.reservedCommand b) => .error (.reservedCommandByte b)
    | .error (.notTenBits u) => .error (.notATransferWord u)

/-- The state with `w` as the next call and no operation in flight, so that the next step runs it. -/
def presentWord (w : BitVec 16) (s : State) : State := { s with calls := .word w :: s.calls, inFlight := none }

end Sys2Proof.Machine
end

