-- ==== Sys2Proof/Machine/Step.lean ====
section
/-! DEFINITION. One step: an iteration of the poll loop of the operation in flight, or the next operation the
caller presents; between operations nothing happens (00_scope.md R10; 70_reset_and_hazards.md R298). -/

namespace Sys2Proof.Machine

/-- One step. With nothing in flight and nothing presented the state stays as it is (DESIGN CHOICE, log 11). -/
def step (s : State) : Host.Outcome State Fault Refusal :=
  match s.inFlight with
  | some v => pollOnce v s
  | none =>
    match s.calls with
    | [] => .next s
    | c :: rest =>
      match callInstr c with
      | .error r => .refused r
      | .ok i => exec i { s with calls := rest }

/-- `s` with the operation whose table word is `w` presented next. -/
def State.withFetchWord (s : State) (nbits w : Nat) : State := presentWord (BitVec.ofNat 16 (w % 2 ^ min nbits 16)) s

end Sys2Proof.Machine
end

