-- ==== Sys2Proof/Safety.lean ====
section
/-! DEFINITION. What claims are stated in: the traces the spec gives each transfer, written out declaratively; trace
equivalence and minimum time; what the controller's pins see of a trace; the discipline a safe trace keeps on the
wires; and the invariants of a state. None of it is used by the machine. -/

namespace Sys2Proof.Machine

/-! ## The traces of the adapter rules -/

/-- `Delay(n)` in a trace; `Delay(0)` is no event (R16 (a)). -/
def delayTrace (n : Nat) : List Event := if n = 0 then [] else [.delay n]

/-- Steps 1 to 3 of a GPIO transfer: RS, RW where owned, E low (R142). -/
def controlTrace (c : Cfg) (rs rw : Level) : List Event :=
  [.set .rs rs] ++ (if c.hasRW then [.set .rw rw] else []) ++ [.set .e false]

/-- Step 4 of a write on one line whose direction is `d` (R141, R142). -/
def driveTrace (d : Dir) (k : Fin 8) (b : Level) : List Event :=
  (if d = .inp then [.initOut (.db k)] else []) ++ [.set (.db k) b]

/-- Step 4 of a read on one line whose direction is `d` (R141, R145). -/
def releaseTrace (d : Dir) (k : Fin 8) : List Event := if d = .out then [.initIn (.db k)] else []

/-- One GPIO write transfer up to its trailing delay (R142 steps 1 to 8, R161 steps 1 to 8). -/
def gpioWriteTrace (c : Cfg) (dir : Vector Dir 8) (lines : List (Fin 8)) (rs : Level) (v : Byte) : List Event :=
  controlTrace c rs false ++ (lines.map fun k => driveTrace dir[k] k (v.getLsbD k)).flatten ++
  [.delay 1, .set .e true, .delay 1, .set .e false]

/-- One GPIO read transfer up to its trailing delay (R145 steps 1 to 8, R163 steps 1 to 8), the levels answered
being the bits of `v`. -/
def gpioReadTrace (c : Cfg) (dir : Vector Dir 8) (lines : List (Fin 8)) (rs : Level) (v : Byte) : List Event :=
  controlTrace c rs true ++ (lines.map fun k => releaseTrace dir[k] k).flatten ++
  [.delay 1, .set .e true, .delay 1] ++ (lines.map fun k => Event.get (.db k) (v.getLsbD k)) ++ [.set .e false]

/-- One I2C write transfer up to its trailing delay (R172 steps 1 to 3). -/
def i2cWriteTrace (c : Cfg) (rs : Level) (d : Nibble) : List Event :=
  [.bw c.i2cAddr (expanderByte c rs false false d), .bw c.i2cAddr (expanderByte c rs false true d),
   .bw c.i2cAddr (expanderByte c rs false false d)]

/-- One I2C read transfer up to its trailing delay (R175 steps 1 to 5), the byte answered being `v`. -/
def i2cReadTrace (c : Cfg) (rs : Level) (v : Byte) : List Event :=
  [.bw c.i2cAddr (expanderByte c rs true false 0xF#4), .bw c.i2cAddr (expanderByte c rs true true 0xF#4),
   .br c.i2cAddr v, .bw c.i2cAddr (expanderByte c rs true false 0xF#4), .delay 4]

/-- The trace of `writeByte(rs, v, 0)` on the bound adapter (R143, R161, R173). On GPIO4 the second nibble finds
every line driven. -/
def writeByteTrace (c : Cfg) (dir : Vector Dir 8) (rs : Level) (v : Byte) : List Event :=
  match c.transport with
  | .gpio8 => gpioWriteTrace c dir [0, 1, 2, 3, 4, 5, 6, 7] rs v
  | .gpio4 =>
    gpioWriteTrace c dir [4, 5, 6, 7] rs (v.extractLsb' 4 4 ++ 0#4) ++
    gpioWriteTrace c (Vector.replicate 8 .out) [4, 5, 6, 7] rs (v.extractLsb' 0 4 ++ 0#4)
  | .i2c => i2cWriteTrace c rs (v.extractLsb' 4 4) ++ i2cWriteTrace c rs (v.extractLsb' 0 4)

/-- The latches after `writeByte(rs, v, _)` (R23, R24, R26). -/
def latchesAfterWrite (c : Cfg) (x : Latches) (rs : Level) (v : Byte) : Latches :=
  match c.transport with
  | .gpio8 => { x with rs := rs, rw := if c.hasRW then false else x.rw, e := false,
                       db := Vector.ofFn fun k => v.getLsbD k }
  | .gpio4 => { x with rs := rs, rw := if c.hasRW then false else x.rw, e := false,
                       db := Vector.ofFn fun k => if 4 ≤ k.val then v.getLsbD (k.val - 4) else x.db[k] }
  | .i2c => { x with xreg := expanderByte c rs false false (v.extractLsb' 0 4) }

/-- The data-line directions after a transfer that turns the adapter's lines to `d` (R141). -/
def dirAfter (c : Cfg) (dir : Vector Dir 8) (d : Dir) : Vector Dir 8 :=
  match c.transport with
  | .gpio8 => Vector.replicate 8 d
  | .gpio4 => Vector.ofFn fun k => if 4 ≤ k.val then d else dir[k]
  | .i2c => dir

/-- The byte a read of the bound adapter makes of the environment's next answers: on a 4-bit path the first
nibble read is the high one (R56), line `DB(4+k)` carries bit `k` of a nibble (R57). -/
def answeredByte (s : State) : Byte :=
  match s.cfg.transport with
  | .gpio8 => BitVec.ofBool (s.answerLevel 7) ++ BitVec.ofBool (s.answerLevel 6) ++ BitVec.ofBool (s.answerLevel 5) ++
      BitVec.ofBool (s.answerLevel 4) ++ BitVec.ofBool (s.answerLevel 3) ++ BitVec.ofBool (s.answerLevel 2) ++
      BitVec.ofBool (s.answerLevel 1) ++ BitVec.ofBool (s.answerLevel 0)
  | .gpio4 => BitVec.ofBool (s.answerLevel 3) ++ BitVec.ofBool (s.answerLevel 2) ++ BitVec.ofBool (s.answerLevel 1) ++
      BitVec.ofBool (s.answerLevel 0) ++ BitVec.ofBool (s.answerLevel 7) ++ BitVec.ofBool (s.answerLevel 6) ++
      BitVec.ofBool (s.answerLevel 5) ++ BitVec.ofBool (s.answerLevel 4)
  | .i2c => expanderNibble s.cfg (s.answerByte 0) ++ expanderNibble s.cfg (s.answerByte 1)

/-- The trace of `readByte(rs, 0)` on the bound adapter (R146, R163, R176). -/
def readByteTrace (s : State) (rs : Level) : List Event :=
  match s.cfg.transport with
  | .gpio8 => gpioReadTrace s.cfg s.dir [0, 1, 2, 3, 4, 5, 6, 7] rs (answeredByte s)
  | .gpio4 =>
    gpioReadTrace s.cfg s.dir [4, 5, 6, 7] rs ((answeredByte s).extractLsb' 4 4 ++ 0#4) ++
    gpioReadTrace s.cfg (Vector.replicate 8 .inp) [4, 5, 6, 7] rs ((answeredByte s).extractLsb' 0 4 ++ 0#4)
  | .i2c => i2cReadTrace s.cfg rs (s.answerByte 0) ++ i2cReadTrace s.cfg rs (s.answerByte 1)

/-- The latches after `readByte(rs, _)`: RW high, E low, data latches kept; on I2C the released byte (R23, R175). -/
def latchesAfterRead (c : Cfg) (x : Latches) (rs : Level) : Latches :=
  match c.transport with
  | .gpio8 => { x with rs := rs, rw := true, e := false }
  | .gpio4 => { x with rs := rs, rw := true, e := false }
  | .i2c => { x with xreg := expanderByte c rs true false 0xF#4 }

/-- The state after one `writeByte(rs, v, 0)`: everything not named is unchanged. -/
def afterWriteByte (s : State) (rs : Level) (v : Byte) : State :=
  { s with trace := s.trace ++ writeByteTrace s.cfg s.dir rs v
           x := latchesAfterWrite s.cfg s.x rs v
           dir := dirAfter s.cfg s.dir .out }

/-- The state after one `readByte(rs, 0)` of a readable adapter: everything not named is unchanged. -/
def afterReadByte (s : State) (rs : Level) : State :=
  { s with trace := s.trace ++ readByteTrace s rs
           x := latchesAfterRead s.cfg s.x rs
           dir := dirAfter s.cfg s.dir .inp
           levels := match s.cfg.transport with
             | .gpio4 => s.levels.drop 8
             | .gpio8 => s.levels.drop 8
             | .i2c => s.levels
           bytes := match s.cfg.transport with
             | .gpio4 => s.bytes
             | .gpio8 => s.bytes
             | .i2c => s.bytes.drop 2
           draws := match s.cfg.transport with
             | .gpio4 => s.draws + 8
             | .gpio8 => s.draws + 8
             | .i2c => s.draws + 2 }

/-- The state after an operation of the `T_INSTR` class whose transfer is done: ended after the fixed delay, or in
its poll loop (R196). -/
def afterInstrWait (s : State) (v : Value) : State :=
  match s.cfg.waitMode with
  | .fixed => { s with trace := s.trace ++ delayTrace s.cfg.tInstr, outcome := some (.ok v) }
  | .poll => { s with inFlight := some v }

/-- The environment's answers as they stand after `j` status reads (R14, R197). -/
def laterAnswers (s : State) (j : Nat) : State :=
  match s.cfg.transport with
  | .gpio4 => { s with levels := s.levels.drop (8 * j), draws := s.draws + 8 * j }
  | .gpio8 => { s with levels := s.levels.drop (8 * j), draws := s.draws + 8 * j }
  | .i2c => { s with bytes := s.bytes.drop (2 * j), draws := s.draws + 2 * j }

/-- The `j`-th status read from now answers busy (R197). -/
def answersBusy (s : State) (j : Nat) : Bool := busyFlag (answeredByte (laterAnswers s j))

/-! ## Trace equivalence and time -/

/-- `Delay(n)`, the one kind of event that R16 merges. -/
def Event.isDelay : Event → Bool
  | .delay _ => true
  | .initOut _ => false
  | .initIn _ => false
  | .set _ _ => false
  | .get _ _ => false
  | .bw _ _ => false
  | .br _ _ => false

/-- The canonical trace of R16: no `Delay(0)`, adjacent delays added; nothing else merged or reordered. -/
def canonTrace : List Event → List Event
  | [] => []
  | .delay n :: rest =>
    match canonTrace rest with
    | .delay m :: r => .delay (n + m) :: r
    | r => delayTrace n ++ r
  | ev :: rest => ev :: canonTrace rest

/-- Trace equivalence (R16). -/
def SameBehaviour (t u : List Event) : Prop := canonTrace t = canonTrace u

/-- The trace of `writeByte(rs, v, n)` as the rules write it, every `Delay` as it stands, `Delay(0)` too (R142 step 9
with R143, R161, R172 with R173). -/
def writeByteRuleTrace (c : Cfg) (dir : Vector Dir 8) (rs : Level) (v : Byte) (n : Nat) : List Event :=
  match c.transport with
  | .gpio8 => gpioWriteTrace c dir [0, 1, 2, 3, 4, 5, 6, 7] rs v ++ [.delay n]
  | .gpio4 =>
    gpioWriteTrace c dir [4, 5, 6, 7] rs (v.extractLsb' 4 4 ++ 0#4) ++ [.delay 0] ++
    gpioWriteTrace c (Vector.replicate 8 .out) [4, 5, 6, 7] rs (v.extractLsb' 0 4 ++ 0#4) ++ [.delay n]
  | .i2c => i2cWriteTrace c rs (v.extractLsb' 4 4) ++ [.delay 0] ++ i2cWriteTrace c rs (v.extractLsb' 0 4) ++ [.delay n]

/-- The trace of `readByte(rs, n)` as the rules write it, every `Delay` as it stands, `Delay(0)` too (R145 step 10 with
R146, R163, R175 step 6 with R176). -/
def readByteRuleTrace (s : State) (rs : Level) (n : Nat) : List Event :=
  match s.cfg.transport with
  | .gpio8 => gpioReadTrace s.cfg s.dir [0, 1, 2, 3, 4, 5, 6, 7] rs (answeredByte s) ++ [.delay n]
  | .gpio4 =>
    gpioReadTrace s.cfg s.dir [4, 5, 6, 7] rs ((answeredByte s).extractLsb' 4 4 ++ 0#4) ++ [.delay 0] ++
    gpioReadTrace s.cfg (Vector.replicate 8 .inp) [4, 5, 6, 7] rs ((answeredByte s).extractLsb' 0 4 ++ 0#4) ++ [.delay n]
  | .i2c => i2cReadTrace s.cfg rs (s.answerByte 0) ++ [.delay 0] ++ i2cReadTrace s.cfg rs (s.answerByte 1) ++ [.delay n]

/-- The least time a trace takes, the sum of its delays (R190, R297). -/
def minTime : List Event → Nat
  | [] => 0
  | .delay n :: rest => n + minTime rest
  | _ :: rest => minTime rest

/-! ## Latches as the trace gives them -/

/-- The level of the last `Set(l, _)` (R23). -/
def lastSet (l : Line) (t : List Event) : Option Level :=
  t.foldl (fun acc ev => match ev with
    | .set l' b => if l' = l then some b else acc
    | _ => acc) none

/-- The direction set by the last `InitOut(l)` or `InitIn(l)` (R23). -/
def lastDir (l : Line) (t : List Event) : Option Dir :=
  t.foldl (fun acc ev => match ev with
    | .initOut l' => if l' = l then some .out else acc
    | .initIn l' => if l' = l then some .inp else acc
    | _ => acc) none

/-- The byte of the last `BW(a, _)` (R24). -/
def lastBusWrite (a : BusAddr) (t : List Event) : Option Byte :=
  t.foldl (fun acc ev => match ev with
    | .bw a' v => if a' = a then some v else acc
    | _ => acc) none

/-! ## Ownership (R22) -/

/-- The data lines a configuration owns. -/
def dataLines (c : Cfg) : List (Fin 8) :=
  match c.transport with
  | .gpio4 => [4, 5, 6, 7]
  | .gpio8 => [0, 1, 2, 3, 4, 5, 6, 7]
  | .i2c => []

/-- A configuration owns a line. -/
def owns (c : Cfg) : Line → Bool
  | .rs => !decide (c.transport = .i2c)
  | .e => !decide (c.transport = .i2c)
  | .rw => !decide (c.transport = .i2c) && c.hasRW
  | .db k => decide (k ∈ dataLines c)

/-! ## What the controller's pins see -/

/-- The levels on the controller's pins, DB7..DB0 as a byte; on a 4-bit path DB3..DB0 are not driven and read 0. -/
structure Pins where
  rs : Level
  rw : Level
  e  : Level
  db : Byte
  deriving DecidableEq, Repr

/-- All pins low. -/
def Pins.low : Pins := { rs := false, rw := false, e := false, db := 0#8 }

/-- A byte with bit `k` set to `b`. -/
def withBit (v : Byte) (k : Fin 8) (b : Level) : Byte :=
  if b then v ||| 1#8 <<< k.val else v &&& ~~~(1#8 <<< k.val)

/-- One event on the pins. An expander write sets all of them by the map (R25, R171). -/
def pinsAfter (c : Cfg) (p : Pins) : Event → Pins
  | .set .rs b => { p with rs := b }
  | .set .rw b => { p with rw := b }
  | .set .e b => { p with e := b }
  | .set (.db k) b => { p with db := withBit p.db k b }
  | .bw _ v =>
    { rs := v.getLsbD c.map.rs, rw := v.getLsbD c.map.rw, e := v.getLsbD c.map.e, db := expanderNibble c v ++ 0#4 }
  | .initOut _ => p
  | .initIn _ => p
  | .get _ _ => p
  | .br _ _ => p
  | .delay _ => p

/-- The transfers a trace makes: the pins at each fall of enable. That the falling edge latches is G13 (PRESUMED,
log 25). -/
def observe (c : Cfg) (p : Pins) : List Event → List Transfer
  | [] => []
  | ev :: rest =>
    let q := pinsAfter c p ev
    if p.e && !q.e then { rs := p.rs, rw := p.rw, db := p.db } :: observe c q rest else observe c q rest

/-! ## The read/write level (R52) -/

/-- An event on a line. -/
def Event.onLine (l : Line) : Event → Bool
  | .initOut l' => decide (l' = l)
  | .initIn l' => decide (l' = l)
  | .set l' _ => decide (l' = l)
  | .get l' _ => decide (l' = l)
  | .bw _ _ => false
  | .br _ _ => false
  | .delay _ => false

/-- The engine has an RW level on the wires: a line of its own, or the RW bit of the expander byte. -/
def hasRWLevel (c : Cfg) : Prop := owns c .rw = true ∨ c.transport = .i2c

/-- R52 for the trace of one transfer or of several in the same direction: RW is held at `level`. Every level given to
RW is `level`, on an owned line it is given, and, whatever RW was before, it is `level` as long as enable is high. -/
structure RwHeld (c : Cfg) (level : Level) (u : List Event) : Prop where
  line      : ∀ b, Event.set .rw b ∈ u → b = level
  owned     : owns c .rw = true → Event.set .rw level ∈ u
  notOwned  : owns c .rw = false → ∀ ev ∈ u, ev.onLine .rw = false
  expander  : ∀ a v, Event.bw a v ∈ u → v.getLsbD c.map.rw = level
  held      : hasRWLevel c → ∀ p : Pins, p.e = false → ∀ now later, u = now ++ later →
    (now.foldl (pinsAfter c) p).e = true → (now.foldl (pinsAfter c) p).rw = level

/-! ## The discipline of a safe trace -/

/-- What a watcher of the wires keeps: RW and E as last set, the directions, the microseconds of delay since the
last line changed, the byte in the expander, and the delay still owed before the next bus event. -/
structure Watch where
  rw    : Level
  e     : Level
  dir   : Vector Dir 8
  since : Nat
  byte  : Option Byte
  owed  : Nat
  deriving DecidableEq, Repr

/-- Before construction: enable low, no line driven. -/
def Watch.start : Watch :=
  { rw := false, e := false, dir := Vector.replicate 8 .inp, since := 0, byte := none, owed := 0 }

/-- One event on the lines of a GPIO variant; `none` is a violation. Only owned lines are touched (R148); nothing
but enable changes while enable is high (R192); a data line is driven only as an output and with RW low (R141,
R292); enable rises after `T_SETTLE` and falls after `T_PULSE`, and a sample comes after `T_PULSE`, with enable and
RW high, from a released line (R192, R147); control lines are never inputs (R23). -/
def watchLine (c : Cfg) (w : Watch) : Event → Option Watch
  | .initOut (.db k) =>
    if k ∈ dataLines c ∧ w.e = false ∧ w.rw = false then some { w with dir := w.dir.set k .out, since := 0 } else none
  | .initOut l => if owns c l ∧ w.e = false then some { w with since := 0 } else none
  | .initIn (.db k) =>
    if k ∈ dataLines c ∧ w.e = false then some { w with dir := w.dir.set k .inp, since := 0 } else none
  | .initIn _ => none
  | .set .rs _ => if owns c .rs ∧ w.e = false then some { w with since := 0 } else none
  | .set .rw b => if owns c .rw ∧ w.e = false then some { w with rw := b, since := 0 } else none
  | .set .e true => if owns c .e ∧ w.e = false ∧ tSettle ≤ w.since then some { w with e := true, since := 0 } else none
  | .set .e false =>
    if owns c .e ∧ (w.e = true → tPulse ≤ w.since) then some { w with e := false, since := 0 } else none
  | .set (.db k) _ =>
    if k ∈ dataLines c ∧ w.e = false ∧ w.rw = false ∧ w.dir[k] = .out then some { w with since := 0 } else none
  | .get (.db k) _ =>
    if k ∈ dataLines c ∧ w.e = true ∧ w.rw = true ∧ w.dir[k] = .inp ∧ tPulse ≤ w.since then some w else none
  | .get _ _ => none
  | .bw _ _ => none
  | .br _ _ => none
  | .delay n => some { w with since := w.since + n }

/-- Two expander bytes differ at most in the enable bit. -/
def sameButEnable (c : Cfg) (u v : Byte) : Bool := decide (u ||| expanderBit true c.map.e = v ||| expanderBit true c.map.e)

/-- One event on the bus of the I2C variant; `none` is a violation. Only the one device is addressed (R54); every
byte carries the backlight bit (R179); enable changes alone, the other bits as in the set-up write (R171); a read
comes while enable and RW are high (R175); a read transfer's de-assert is followed by 4 µs before the next bus event
(R178). -/
def watchBus (c : Cfg) (w : Watch) : Event → Option Watch
  | .bw a v =>
    let rises := !w.e && v.getLsbD c.map.e
    let falls := w.e && !v.getLsbD c.map.e
    if a = c.i2cAddr ∧ w.owed = 0 ∧ v.getLsbD c.map.bl = c.backlight ∧
        (w.e = true → falls = true) ∧
        ((rises || falls) = true → w.byte.any (fun u => sameButEnable c u v) = true) then
      some { w with rw := v.getLsbD c.map.rw, e := v.getLsbD c.map.e, byte := some v
                    owed := if falls && v.getLsbD c.map.rw then tI2cRead else 0 }
    else none
  | .br a _ => if a = c.i2cAddr ∧ w.owed = 0 ∧ w.e = true ∧ w.rw = true then some w else none
  | .delay n => some { w with owed := w.owed - n }
  | .initOut _ => none
  | .initIn _ => none
  | .set _ _ => none
  | .get _ _ => none

/-- One event, on the bound transport's wires. -/
def watchEvent (c : Cfg) (w : Watch) (ev : Event) : Option Watch :=
  match c.transport with
  | .gpio4 => watchLine c w ev
  | .gpio8 => watchLine c w ev
  | .i2c => watchBus c w ev

/-- A whole trace; `none` where some event violates the discipline. -/
def watch (c : Cfg) (w : Watch) : List Event → Option Watch
  | [] => some w
  | ev :: rest =>
    match watchEvent c w ev with
    | some w' => watch c w' rest
    | none => none

/-! ## Invariants of a state -/

/-- R27: enable is low, on the line or in the expander byte. -/
def EnableLow (s : State) : Prop :=
  match s.cfg.transport with
  | .gpio4 => s.x.e = false
  | .gpio8 => s.x.e = false
  | .i2c => s.x.xreg.getLsbD s.cfg.map.e = false

/-- R23, R24: each owned line's latch is the last level set and its direction the last one initialised; on I2C the
shadow is the last byte written to the expander. -/
def LatchesFollowTrace (s : State) : Prop :=
  (∀ l, owns s.cfg l = true → lastSet l s.trace = some (s.x.level l)) ∧
  (∀ k, k ∈ dataLines s.cfg → lastDir (.db k) s.trace = some s.dir[k]) ∧
  (s.cfg.transport = .i2c → lastBusWrite s.cfg.i2cAddr s.trace = some s.x.xreg)

/-- A line that is not owned keeps its constructed latch and direction, and a GPIO variant has no expander byte. The values
kept are the model's (DESIGN CHOICE, log 14): the spec gives no state to what is not owned. -/
def UnownedAtRest (s : State) : Prop :=
  (∀ l, owns s.cfg l = false → s.x.level l = false) ∧
  (∀ k, k ∉ dataLines s.cfg → s.dir[k] = .out) ∧
  (s.cfg.transport ≠ .i2c → s.x.xreg = 0x00#8)

/-- The whole trace keeps the discipline, and the watcher ends at the state's own levels and directions, enable low
and nothing owed. -/
def WiresSafe (s : State) : Prop :=
  ∃ w, watch s.cfg .start s.trace = some w ∧ w.e = false ∧ w.owed = 0 ∧
    (s.cfg.transport ≠ .i2c → w.rw = (s.cfg.hasRW && s.x.rw)) ∧
    (∀ k, k ∈ dataLines s.cfg → w.dir[k] = s.dir[k]) ∧
    (s.cfg.transport = .i2c → w.byte = some s.x.xreg)

/-- A state the engine can be in between two steps. -/
structure EngineInv (s : State) : Prop where
  wf        : s.cfg.wf = true
  enableLow : EnableLow s
  latches   : LatchesFollowTrace s
  unowned   : UnownedAtRest s
  wires     : WiresSafe s
  /-- An operation is in flight only in `POLL` mode (R196). -/
  inFlight  : s.inFlight.isSome = true → s.cfg.waitMode = .poll
  /-- The last operation's trace is a part of the trace. -/
  opStart   : s.opStart ≤ s.trace.length

end Sys2Proof.Machine
end

