-- ==== Sys2Proof/Certificates/Slice0/Obligations.lean ====
section
/-! DEFINITION. The statements for the provers, each `def Obligations.<Name> : Prop`. The traces and states they name
are those of Safety.lean, written from the spec's traces and not from the machine. -/

open Sys2Proof Sys2Proof.Machine

/-! ## Encoding -/

/-- One word of every family, written out bit by bit from R82's formats, decodes to its operation; the first eight
are V8's. The bases are the spec's general knowledge (log 1). The priming byte of INIT decodes to FUNCSET, since a
decoder skips the pseudo row (log 6). -/
def Obligations.WrittenWordsDecode : Prop :=
  decode 0b0000000001#10 = .ok .clear ∧ decode 0b0000000010#10 = .ok .home ∧
  decode 0b0000000110#10 = .ok (.entry true false) ∧ decode 0b0000001100#10 = .ok (.display true false false) ∧
  decode 0b0000010100#10 = .ok (.shift true true) ∧ decode 0b0000101000#10 = .ok (.funcset false true false) ∧
  decode 0b0001111111#10 = .ok (.setcg 63) ∧ decode 0b0011000000#10 = .ok (.setdd 64) ∧
  decode 0b1001001000#10 = .ok (.wrdata 0x48#8) ∧ decode 0b0111000101#10 = .ok .rdstat ∧
  decode 0b1101000001#10 = .ok .rddata ∧ decode 0b0000110000#10 = .ok (.funcset true false false)

/-- DECODE AND ENCODE AGREE: every well-formed operation but the sequence INIT has a word, and its word decodes to it,
every operand at every value; an operation that is not well formed has none (R82, R85, R89). -/
def Obligations.DecodeOfEncode : Prop :=
  ∀ i : Instr,
    (i.wf = true → i ≠ .init → ∃ w, encode i = some w ∧ decode w = .ok i) ∧
    (i.wf = false → encode i = none)

/-- The other direction: a decoded word is its operation's word, all of it for a write, and its RS and RW for a read,
whose data bits the engine does not drive (R81, R87). -/
def Obligations.EncodeOfDecode : Prop :=
  ∀ (w : TransferWord) (i : Instr), decode w = .ok i →
    i.wf = true ∧ ∃ u, encode i = some u ∧ u.extractLsb' 8 2 = w.extractLsb' 8 2 ∧ (i.isRead = false → u = w)

/-- R89 and R90: of the 256 command bytes 218 decode, and the 38 others are exactly the reserved list. -/
def Obligations.CommandByteImage : Prop :=
  ((List.range 256).filter fun n => (decodeCommand (BitVec.ofNat 8 n)).toBool).length = 218 ∧
  ((List.range 256).filter fun n => !(decodeCommand (BitVec.ofNat 8 n)).toBool) =
    [0x00, 0x03, 0x11, 0x12, 0x13, 0x15, 0x16, 0x17, 0x19, 0x1A, 0x1B, 0x1D, 0x1E, 0x1F,
     0x21, 0x22, 0x23, 0x25, 0x26, 0x27, 0x29, 0x2A, 0x2B, 0x2D, 0x2E, 0x2F,
     0x31, 0x32, 0x33, 0x35, 0x36, 0x37, 0x39, 0x3A, 0x3B, 0x3D, 0x3E, 0x3F]

/-- The opcode table's eleven rows that are not pseudo are unambiguous and the decoder is them: a word that decodes is in
exactly its operation's row of the eleven, and a word that does not is in none. Left out is the pseudo row INIT, whose word
0x030 lies in FUNCSET's row as well and which a decoder skips by the row's own note (log 6, DEDUCED). -/
def Obligations.DecoderFollowsOpcodeTable : Prop :=
  ∀ w : TransferWord, match decode w with
    | .ok i => (opcodeRows.filter fun r => r.holds w).map (·.mnemonic) = [i.mnemonic]
    | .error _ => (opcodeRows.filter fun r => r.holds w) = []

/-! ## The encoder -/

/-- The triples of the encoder's nine operations, each opcode built bit by bit, or as its base plus the address:
`(opcode, registerSelect, minDelayMicros)` (R111 to R119, R122), the two set-address operations on every address in range
(out of range they raise: AddressOperandsCheckedNotWrapped). The bases and positions are D5's general knowledge (log 1). -/
def Obligations.EncoderTriples : Prop :=
  ∀ (c : Cfg) (p q r : Bool) (v : Byte) (a : Nat),
    let triple (i : Instruction) := (i.opcode, i.registerSelect, i.minDelayMicros c)
    let bits (l : List Bool) : Byte := BitVec.ofNat 8 (l.foldl (fun n b => 2 * n + b.toNat) 0)
    triple encodeClear = (0x01#8, .command, 1520) ∧
    triple encodeHome = (0x02#8, .command, 1520) ∧
    triple (encodeEntryMode p q) = (bits [false, false, false, false, false, true, p, q], .command, c.tInstr) ∧
    triple (encodeDisplayControl p q r) = (bits [false, false, false, false, true, p, q, r], .command, c.tInstr) ∧
    triple (encodeShift p q) = (bits [false, false, false, true, !p, q, false, false], .command, c.tInstr) ∧
    triple (encodeFunctionSet p q r) = (bits [false, false, true, p, q, r, false, false], .command, c.tInstr) ∧
    (a ≤ 63 → ∃ i, encodeSetCgramAddress a = .ok i ∧ triple i = (BitVec.ofNat 8 (0x40 + a), .command, c.tInstr)) ∧
    (a ≤ 127 → ∃ i, encodeSetDdramAddress a = .ok i ∧ triple i = (BitVec.ofNat 8 (0x80 + a), .command, c.tInstr)) ∧
    triple (encodeWriteData v) = (v, .data, c.tInstr)

/-- R85, whole: in range the address is zero-extended into its field, and set-DDRAM-address accepts 0 and 127; out of
range, as at 128, the operation raises a ConfigurationError with the region and the address as given. -/
def Obligations.AddressOperandsCheckedNotWrapped : Prop :=
  (∀ addr : Int, 0 ≤ addr → addr ≤ 63 → ∃ i, encodeSetCgramAddress addr = .ok i ∧
      ((i.opcode.extractLsb' 0 6).toNat : Int) = addr) ∧
  (∀ addr : Int, 0 ≤ addr → addr ≤ 127 → ∃ i, encodeSetDdramAddress addr = .ok i ∧
      ((i.opcode.extractLsb' 0 7).toNat : Int) = addr) ∧
  (∀ addr : Int, addr < 0 ∨ 63 < addr → ∀ s : State, s.inFlight = none →
      ∃ t, exec (.setcg addr) s = .next t ∧ t.outcome = some (.error (.addressOutOfRange .cgram addr))) ∧
  (∀ addr : Int, addr < 0 ∨ 127 < addr → ∀ s : State, s.inFlight = none →
      ∃ t, exec (.setdd addr) s = .next t ∧ t.outcome = some (.error (.addressOutOfRange .ddram addr))) ∧
  (∀ r addr, faultClass (.addressOutOfRange r addr) = .configurationError)

/-! ## The adapters -/

/-- `writeByte(rs, v, 0)` on every variant: the trace of R142 with R143, of R161 or of R172 with R173, the latches and
directions it leaves, and nothing else changed (also R141: a released line is turned to output first). -/
def Obligations.WriteByteEffect : Prop :=
  ∀ (s : State) (rs : RegisterSelect) (v : Byte),
    writeByte rs v 0 s = afterWriteByte s (decide (rs = .data)) v

/-- `readByte(rs, 0)` on every variant that can read: the trace of R145 with R146, of R163 or of R175 with R176, the
byte returned, and nothing else changed. Where no answer is scripted the byte is a free value (log 4). -/
def Obligations.ReadByteEffect : Prop :=
  ∀ (s : State) (rs : RegisterSelect), s.cfg.canRead = true →
    readByte rs 0 s = .ok (answeredByte s, afterReadByte s (decide (rs = .data)))

/-- `writeNibble(rs, d, n)` on the two 4-bit paths (R142, R172), and its refusal on GPIO8, which has none (R164). -/
def Obligations.WriteNibbleEffect : Prop :=
  ∀ (s : State) (rs : RegisterSelect) (d : Nibble) (n : Nat),
    (s.cfg.transport = .gpio4 → ∃ t, writeNibble rs d n s = .next t ∧
      t.trace = s.trace ++ gpioWriteTrace s.cfg s.dir [4, 5, 6, 7] (decide (rs = .data)) (d ++ 0#4) ++ delayTrace n ∧
      (∀ k : Fin 8, t.x.db[k] = if 4 ≤ k.val then d.getLsbD (k.val - 4) else s.x.db[k]) ∧
      (∀ k : Fin 8, t.dir[k] = if 4 ≤ k.val then .out else s.dir[k]) ∧
      t = { s with trace := t.trace, dir := t.dir
                   x := { s.x with rs := decide (rs = .data), rw := !s.cfg.hasRW && s.x.rw, e := false, db := t.x.db } }) ∧
    (s.cfg.transport = .i2c → writeNibble rs d n s = .next
      { s with trace := s.trace ++ i2cWriteTrace s.cfg (decide (rs = .data)) d ++ delayTrace n
               x := { s.x with xreg := expanderByte s.cfg (decide (rs = .data)) false false d } }) ∧
    (s.cfg.transport = .gpio8 → writeNibble rs d n s = .refused .noNibblePrimitive)

/-- `readNibble(rs, n)` on a readable 4-bit path (R145, R175), and its refusal on GPIO8, which has none (R164). -/
def Obligations.ReadNibbleEffect : Prop :=
  ∀ (s : State) (rs : RegisterSelect) (n : Nat), s.cfg.canRead = true →
    (s.cfg.transport = .gpio4 → ∃ d t, readNibble rs n s = .next (d, t) ∧
      (∀ k : Fin 4, d.getLsbD k = s.answerLevel k) ∧
      t.trace = s.trace ++ gpioReadTrace s.cfg s.dir [4, 5, 6, 7] (decide (rs = .data)) (d ++ 0#4) ++ delayTrace n ∧
      (∀ k : Fin 8, t.dir[k] = if 4 ≤ k.val then .inp else s.dir[k]) ∧
      t = { s with trace := t.trace, dir := t.dir, levels := s.levels.drop 4, draws := s.draws + 4
                   x := { s.x with rs := decide (rs = .data), rw := true, e := false } }) ∧
    (s.cfg.transport = .i2c → readNibble rs n s = .next (expanderNibble s.cfg (s.answerByte 0),
      { s with trace := s.trace ++ i2cReadTrace s.cfg (decide (rs = .data)) (s.answerByte 0) ++ delayTrace n
               bytes := s.bytes.drop 1, draws := s.draws + 1
               x := { s.x with xreg := expanderByte s.cfg (decide (rs = .data)) true false 0xF#4 } })) ∧
    (s.cfg.transport = .gpio8 → readNibble rs n s = .refused .noNibblePrimitive)

/-- R55: on a 4-bit path a byte is moved as two nibble writes, `v[7:4]` first, then `v[3:0]`, and the two concatenated
give the byte back. -/
def Obligations.WriteMovesHighNibbleFirst : Prop :=
  ∀ (s : State) (rs : RegisterSelect) (v : Byte) (n : Nat), s.cfg.transport ≠ .gpio8 →
    ∃ u, writeNibble rs (v.extractLsb' 4 4) 0 s = .next u ∧
      writeNibble rs (v.extractLsb' 0 4) n u = .next (writeByte rs v n s) ∧
      v.extractLsb' 4 4 ++ v.extractLsb' 0 4 = v

/-- R56: on a 4-bit path a byte is read as two nibble reads, and the result is `(first << 4) | second`. -/
def Obligations.ReadJoinsHighNibbleFirst : Prop :=
  ∀ (s : State) (rs : RegisterSelect) (n : Nat), s.cfg.transport ≠ .gpio8 → s.cfg.canRead = true →
    ∃ first second u t, readNibble rs 0 s = .next (first, u) ∧ readNibble rs n u = .next (second, t) ∧
      readByte rs n s = .ok ((first.setWidth 8 <<< 4) ||| second.setWidth 8, t)

/-- R193: the trailing delay comes after enable is lowered and is the last thing a primitive does; on a two-nibble byte
it follows the second nibble only. -/
def Obligations.TrailingDelayComesLast : Prop :=
  ∀ (s : State) (rs : RegisterSelect) (n : Nat), s.cfg.wf = true →
    (∀ v : Byte, writeByte rs v n s = (writeByte rs v 0 s).delay n ∧ EnableLow (writeByte rs v 0 s)) ∧
    (s.cfg.canRead = true → ∃ b t, readByte rs 0 s = .ok (b, t) ∧ readByte rs n s = .ok (b, t.delay n) ∧ EnableLow t) ∧
    (s.cfg.transport ≠ .gpio8 → ∀ d : Nibble, ∃ t,
      writeNibble rs d 0 s = .next t ∧ writeNibble rs d n s = .next (t.delay n) ∧ EnableLow t) ∧
    (s.cfg.transport ≠ .gpio8 → s.cfg.canRead = true → ∃ d t,
      readNibble rs 0 s = .next (d, t) ∧ readNibble rs n s = .next (d, t.delay n) ∧ EnableLow t)

/-- R144 and R162: on a GPIO variant without an RW line every read raises ConfigurationError(ReadOnWriteOnlyWiring) and
emits no event. -/
def Obligations.ReadOnWriteOnlyWiringRaises : Prop :=
  ∀ (s : State) (rs : RegisterSelect) (n : Nat), s.cfg.transport ≠ .i2c → s.cfg.hasRW = false →
    readByte rs n s = .error .readOnWriteOnlyWiring ∧
    (s.cfg.transport = .gpio4 → readNibble rs n s = .fault .readOnWriteOnlyWiring) ∧
    faultClass .readOnWriteOnlyWiring = .configurationError ∧
    (s.inFlight = none → ∀ i : Instr, i.isRead = true →
      ∃ t, exec i s = .next t ∧ t.outcome = some (.error .readOnWriteOnlyWiring) ∧ t.trace = s.trace)

/-- R174: on a write-only expander every read raises UnsupportedOperationError(ReadOnWriteOnlyExpander) and emits no
event: no `BW`, no `BR`, no `Delay`. -/
def Obligations.ReadOnWriteOnlyExpanderRaises : Prop :=
  ∀ (s : State) (rs : RegisterSelect) (n : Nat), s.cfg.transport = .i2c → s.cfg.i2cReadable = false →
    readByte rs n s = .error .readOnWriteOnlyExpander ∧
    readNibble rs n s = .fault .readOnWriteOnlyExpander ∧
    faultClass .readOnWriteOnlyExpander = .unsupportedOperationError ∧
    (s.inFlight = none → ∀ i : Instr, i.isRead = true →
      ∃ t, exec i s = .next t ∧ t.outcome = some (.error .readOnWriteOnlyExpander) ∧ t.trace = s.trace)

/-- R52, whole: every write of a byte or a nibble holds RW low, INIT's priming writes among them, and every read of a byte
or a nibble holds it high, on the line where one is owned and in every expander byte. Where no RW line is owned no step
and no construction makes an event on it, and on a GPIO variant only the write direction exists: every read primitive
stops and gives no next state. -/
def Obligations.ReadWriteLevelByDirection : Prop :=
  (∀ (s : State) (rs : RegisterSelect) (n : Nat), s.cfg.wf = true →
    (∀ v : Byte, ∃ u, (writeByte rs v n s).trace = s.trace ++ u ∧ RwHeld s.cfg false u) ∧
    (s.cfg.transport ≠ .gpio8 → ∀ d : Nibble, ∃ t u, writeNibble rs d n s = .next t ∧ t.trace = s.trace ++ u ∧
      RwHeld s.cfg false u) ∧
    (s.inFlight = none → ∃ t, exec .init s = .next t ∧ RwHeld s.cfg false t.opTrace) ∧
    (s.cfg.canRead = true → ∃ b t u, readByte rs n s = .ok (b, t) ∧ t.trace = s.trace ++ u ∧ RwHeld s.cfg true u) ∧
    (s.cfg.canRead = true → s.cfg.transport ≠ .gpio8 → ∃ d t u, readNibble rs n s = .next (d, t) ∧
      t.trace = s.trace ++ u ∧ RwHeld s.cfg true u) ∧
    (s.cfg.transport ≠ .i2c → s.cfg.hasRW = false → (∃ f, readByte rs n s = .error f) ∧
      ∀ d t, readNibble rs n s ≠ .next (d, t))) ∧
  (∀ s t : State, step s = .next t → owns s.cfg .rw = false →
    ∃ u, t.trace = s.trace ++ u ∧ ∀ ev ∈ u, ev.onLine .rw = false) ∧
  (∀ (c : Cfg) (t : State), construct c = .next t → owns c .rw = false → ∀ ev ∈ t.trace, ev.onLine .rw = false)

/-- R54, whole: the engine addresses one device: every `BW` and `BR` it emits, in a step or in its construction, carries
`cfg.i2cAddr`, and only the I2C variant emits one. -/
def Obligations.OneBusDevice : Prop :=
  (∀ s t : State, step s = .next t → ∃ u, t.trace = s.trace ++ u ∧
    ∀ a v, Event.bw a v ∈ u ∨ Event.br a v ∈ u → s.cfg.transport = .i2c ∧ a = s.cfg.i2cAddr) ∧
  (∀ (c : Cfg) (t : State), construct c = .next t →
    ∀ a v, Event.bw a v ∈ t.trace ∨ Event.br a v ∈ t.trace → c.transport = .i2c ∧ a = c.i2cAddr)

/-- R25 and R179: with an injective map every field of the expander byte reads back, the backlight bit is the
configuration's, and `N` is the inverse on the nibble. -/
def Obligations.ExpanderByteFieldsReadBack : Prop :=
  ∀ (c : Cfg) (rs rw e : Level) (d : Nibble), c.map.injective = true →
    (expanderByte c rs rw e d).getLsbD c.map.rs = rs ∧ (expanderByte c rs rw e d).getLsbD c.map.rw = rw ∧
    (expanderByte c rs rw e d).getLsbD c.map.e = e ∧ (expanderByte c rs rw e d).getLsbD c.map.bl = c.backlight ∧
    expanderNibble c (expanderByte c rs rw e d) = d

/-! ## Operations: result, completion and frame

Each conclusion is an equation of states: every field it does not name is unchanged. -/

/-- R195, whole: clear and home are followed by the fixed `Delay(T_CLEAR_HOME)` in both wait modes; no status read
replaces or shortens it. -/
def Obligations.ClearAndHomeFlatDelay : Prop :=
  ∀ (s : State) (i : Instr), s.inFlight = none → i = .clear ∨ i = .home →
    ∃ t u, exec i s = .next t ∧ t.inFlight = none ∧ t.outcome = some (.ok .absent) ∧
      t.trace = s.trace ++ u ++ [.delay 1520] ∧
      (∀ ev ∈ u, (∀ l b, ev ≠ .get l b) ∧ (∀ a v, ev ≠ .br a v)) ∧ t.draws = s.draws

/-- CLEAR and HOME complete: the byte `0x01` or `0x02` with RS low, then 1520 µs, on every transport and in both wait
modes (R111, R112, R213, R214; bases: log 1). -/
def Obligations.ClearAndHomeComplete : Prop :=
  ∀ s : State, s.inFlight = none →
    exec .clear s = .next ({ afterWriteByte s.begin false 0x01#8 with
      trace := s.trace ++ writeByteTrace s.cfg s.dir false 0x01#8 ++ [.delay 1520], outcome := some (.ok .absent) }) ∧
    exec .home s = .next ({ afterWriteByte s.begin false 0x02#8 with
      trace := s.trace ++ writeByteTrace s.cfg s.dir false 0x02#8 ++ [.delay 1520], outcome := some (.ok .absent) })

/-- ENTRY, DISPLAY, SHIFT and FUNCSET complete: the opcode with RS low, then the wait of the `T_INSTR` class (R113 to
R116, R196, R215 to R218; bases, positions and the shift target's polarity: log 1). In `POLL` mode what completes here is
the transfer, after which the operation is in flight (log 10). -/
def Obligations.FlagOperationsComplete : Prop :=
  ∀ (s : State) (p q r : Bool), s.inFlight = none →
    exec (.entry p q) s = .next (afterInstrWait (afterWriteByte s.begin false
      (0x04#8 + (if p then 2#8 else 0#8) + (if q then 1#8 else 0#8))) .absent) ∧
    exec (.display p q r) s = .next (afterInstrWait (afterWriteByte s.begin false
      (0x08#8 + (if p then 4#8 else 0#8) + (if q then 2#8 else 0#8) + (if r then 1#8 else 0#8))) .absent) ∧
    exec (.shift p q) s = .next (afterInstrWait (afterWriteByte s.begin false
      (0x10#8 + (if p then 0#8 else 8#8) + (if q then 4#8 else 0#8))) .absent) ∧
    exec (.funcset p q r) s = .next (afterInstrWait (afterWriteByte s.begin false
      (0x20#8 + (if p then 16#8 else 0#8) + (if q then 8#8 else 0#8) + (if r then 4#8 else 0#8))) .absent)

/-- SETCG and SETDD complete on every address in range: the opcode `0x40 + addr` or `0x80 + addr` with RS low, then the
wait of the `T_INSTR` class (R117, R118, R196, R219; bases: log 1). In `POLL` mode what completes here is the transfer,
after which the operation is in flight (log 10). -/
def Obligations.SetAddressCompletes : Prop :=
  ∀ (s : State) (a : Nat), s.inFlight = none →
    (a ≤ 63 → exec (.setcg a) s =
      .next (afterInstrWait (afterWriteByte s.begin false (BitVec.ofNat 8 (64 + a))) .absent)) ∧
    (a ≤ 127 → exec (.setdd a) s =
      .next (afterInstrWait (afterWriteByte s.begin false (BitVec.ofNat 8 (128 + a))) .absent))

/-- SETCG and SETDD on an address out of range raise error 1.1 with the region and the address: nothing is emitted and
the engine's state is unchanged (R117, R118, R251, R254; precision: D19). The sticky mark is the model's (log 12). -/
def Obligations.SetAddressOutOfRangeRaises : Prop :=
  ∀ (s : State) (a : Int), s.inFlight = none →
    (a < 0 ∨ 63 < a → exec (.setcg a) s = .next { s with
      opStart := s.trace.length, outcome := some (.error (.addressOutOfRange .cgram a))
      firstError := s.firstError.or (some (.addressOutOfRange .cgram a)) }) ∧
    (a < 0 ∨ 127 < a → exec (.setdd a) s = .next { s with
      opStart := s.trace.length, outcome := some (.error (.addressOutOfRange .ddram a))
      firstError := s.firstError.or (some (.addressOutOfRange .ddram a)) })

/-- WRDATA completes for every byte: the byte unchanged with RS high, then the wait of the `T_INSTR` class (R119, R196,
R220; the RS level: log 1). In `POLL` mode what completes here is the transfer, after which the operation is in flight
(log 10). -/
def Obligations.WriteDataCompletes : Prop :=
  ∀ (s : State) (v : Byte), s.inFlight = none →
    exec (.wrdata v) s = .next (afterInstrWait (afterWriteByte s.begin true v) .absent)

/-- RDDATA completes on an adapter that can read: RS high, the byte returned, then the wait of the `T_INSTR` class (R121,
R196, R220; the row is D9's). Where no answer is scripted the byte is a free value (log 4). In `POLL` mode what completes
here is the transfer, after which the operation is in flight with the byte it will return (log 10). -/
def Obligations.ReadDataCompletes : Prop :=
  ∀ s : State, s.inFlight = none → s.cfg.canRead = true →
    exec .rddata s = .next (afterInstrWait (afterReadByte s.begin true) (.byte (answeredByte s)))

/-- RDSTAT completes on an adapter that can read: RS low, the byte decoded by R86, and no wait in either mode (R120,
R221). Where no answer is scripted the byte is a free value (log 4). -/
def Obligations.ReadStatusCompletes : Prop :=
  ∀ s : State, s.inFlight = none → s.cfg.canRead = true →
    exec .rdstat s = .next { afterReadByte s.begin false with
      outcome := some (.ok (.status { busy := (answeredByte s).getLsbD 7
                                      addressCounter := (answeredByte s).extractLsb' 0 7 })) }

/-- R86, whole: the decode of a status read's byte, total, with the source's two examples. -/
def Obligations.StatusReadDecodes : Prop :=
  (∀ b : Byte, (decodeStatus b).busy = b.getLsbD 7 ∧ (decodeStatus b).addressCounter = b.extractLsb' 0 7) ∧
  decodeStatus 0xC5#8 = { busy := true, addressCounter := 0x45#7 } ∧
  decodeStatus 0x05#8 = { busy := false, addressCounter := 0x05#7 } ∧
  (∀ s : State, s.inFlight = none → s.cfg.canRead = true →
    ∃ b u t, readByte .command 0 s = .ok (b, u) ∧ exec .rdstat s = .next t ∧ t.trace = u.trace ∧
      t.outcome = some (.ok (.status (decodeStatus b))))

/-- RDDATA and RDSTAT on an adapter that cannot read raise 1.2 or 2.1: nothing is emitted and the engine's state is
unchanged (R251, R252, R254; precision: D19). The sticky mark is the model's (log 12). -/
def Obligations.ReadOnUnreadableAdapterRaises : Prop :=
  ∀ (s : State) (i : Instr), s.inFlight = none → s.cfg.canRead = false → i.isRead = true →
    let f : Fault := if s.cfg.transport = .i2c then .readOnWriteOnlyExpander else .readOnWriteOnlyWiring
    exec i s = .next { s with
      opStart := s.trace.length, outcome := some (.error f), firstError := s.firstError.or (some f) }

/-- INIT completes on GPIO4: 40 ms, then the nibbles 3, 3, 3, 2 with their waits (R240, R241; the nibble values and the
last two waits are D17's). -/
def Obligations.InitCompletesOnGpio4 : Prop :=
  ∀ s : State, s.inFlight = none → s.cfg.transport = .gpio4 →
    let out : Vector Dir 8 := Vector.replicate 8 .out
    let w (dir : Vector Dir 8) (v : Byte) := gpioWriteTrace s.cfg dir [4, 5, 6, 7] false v
    exec .init s = .next { s with
      opStart := s.trace.length
      trace := s.trace ++ [.delay 40000] ++ w s.dir 0x30#8 ++ [.delay 4100] ++ w out 0x30#8 ++ [.delay 100] ++
        w out 0x30#8 ++ delayTrace s.cfg.tInstr ++ w out 0x20#8 ++ delayTrace s.cfg.tInstr
      x := { s.x with rs := false, rw := !s.cfg.hasRW && s.x.rw, e := false
                      db := (((s.x.db.set 4 false).set 5 true).set 6 false).set 7 false }
      dir := dirAfter s.cfg s.dir .out
      outcome := some (.ok .absent) }

/-- INIT completes on GPIO8: 40 ms, then the byte `0x30` four times with its waits (R240, R242; the byte and the last
two waits are D17's). -/
def Obligations.InitCompletesOnGpio8 : Prop :=
  ∀ s : State, s.inFlight = none → s.cfg.transport = .gpio8 →
    let out : Vector Dir 8 := Vector.replicate 8 .out
    let w (dir : Vector Dir 8) := gpioWriteTrace s.cfg dir [0, 1, 2, 3, 4, 5, 6, 7] false 0x30#8
    exec .init s = .next { s with
      opStart := s.trace.length
      trace := s.trace ++ [.delay 40000] ++ w s.dir ++ [.delay 4100] ++ w out ++ [.delay 100] ++
        w out ++ delayTrace s.cfg.tInstr ++ w out ++ delayTrace s.cfg.tInstr
      x := { s.x with rs := false, rw := !s.cfg.hasRW && s.x.rw, e := false
                      db := #v[false, false, false, false, true, true, false, false] }
      dir := out
      outcome := some (.ok .absent) }

/-- INIT completes on I2C: the sequence of R241 with the bridge's nibble writes (R240, R243; D17). -/
def Obligations.InitCompletesOnI2c : Prop :=
  ∀ s : State, s.inFlight = none → s.cfg.transport = .i2c →
    let w (d : Nibble) := i2cWriteTrace s.cfg false d
    exec .init s = .next { s with
      opStart := s.trace.length
      trace := s.trace ++ [.delay 40000] ++ w 0x3#4 ++ [.delay 4100] ++ w 0x3#4 ++ [.delay 100] ++
        w 0x3#4 ++ delayTrace s.cfg.tInstr ++ w 0x2#4 ++ delayTrace s.cfg.tInstr
      x := { s.x with xreg := expanderByte s.cfg false false false 0x2#4 }
      outcome := some (.ok .absent) }

/-! ## The wait policy -/

/-- R211, its second sentence: in `FIXED` mode issuing an instruction is the adapter's write with the instruction's own
minimum delay as the trailing delay, for every instruction of the encoder's two write classes. -/
def Obligations.FixedWaitIsTrailingDelay : Prop :=
  ∀ (s : State) (i : Instruction), s.cfg.waitMode = .fixed →
    issue i s = (writeByte i.registerSelect i.opcode (i.minDelayMicros s.cfg) s).finish .absent

/-- One iteration of the poll loop is one status read; it ends the operation when bit 7 is 0 and leaves it in flight
when bit 7 is 1 (R197). That an iteration is one step is the model's choice (log 10). -/
def Obligations.PollIteration : Prop :=
  ∀ (s : State) (v : Value), s.inFlight = some v → s.cfg.canRead = true →
    step s = .next (if (answeredByte s).getLsbD 7 then afterReadByte s false
      else { afterReadByte s false with inFlight := none, outcome := some (.ok v) })

/-- The poll loop ends: after `n` busy answers and one ready answer the operation has returned its value, after exactly
`n + 1` status reads, and no further call was taken (R197, R11). That a status read is one step is log 10's. -/
def Obligations.PollLoopEndsAtFirstReadyAnswer : Prop :=
  ∀ (s : State) (v : Value) (n : Nat), s.inFlight = some v → s.cfg.canRead = true →
    (∀ j < n, answersBusy s j = true) → answersBusy s n = false →
    ∃ t, core.run (n + 1) s = .next t ∧ t.inFlight = none ∧ t.outcome = some (.ok v) ∧ t.calls = s.calls ∧
      t.cfg = s.cfg ∧ t.draws = s.draws + (n + 1) * (if s.cfg.transport = .i2c then 2 else 8)

/-- The poll loop has no bound: while the answers are busy the operation stays in flight, however many steps are taken
(R197, R294, U6). That a status read is one step is log 10's. -/
def Obligations.PollLoopHangsWhileBusy : Prop :=
  ∀ (s : State) (v : Value) (n : Nat), s.inFlight = some v → s.cfg.canRead = true →
    (∀ j < n, answersBusy s j = true) →
    ∃ t, core.run n s = .next t ∧ t.inFlight = some v ∧ t.outcome = s.outcome ∧ t.calls = s.calls

/-- R297: the least time an operation takes in `FIXED` mode, the bus calls apart, on an adapter that can read. -/
def Obligations.LeastTimeOfEachOperation : Prop :=
  ∀ (s : State) (i : Instr), s.inFlight = none → s.cfg.waitMode = .fixed → i.wf = true →
    (i.isRead = true → s.cfg.canRead = true) → ∃ t, exec i s = .next t ∧ minTime t.opTrace =
      match i with
      | .clear | .home => (match s.cfg.transport with | .gpio8 => 2 | .gpio4 => 4 | .i2c => 0) + 1520
      | .entry _ _ | .display _ _ _ | .shift _ _ | .funcset _ _ _ | .setcg _ | .setdd _ | .wrdata _ =>
        (match s.cfg.transport with | .gpio8 => 2 | .gpio4 => 4 | .i2c => 0) + s.cfg.tInstr
      | .rddata => (match s.cfg.transport with | .gpio8 => 2 | .gpio4 => 4 | .i2c => 8) + s.cfg.tInstr
      | .rdstat => match s.cfg.transport with | .gpio8 => 2 | .gpio4 => 4 | .i2c => 8
      | .init => 40000 + 4100 + 100 + 2 * s.cfg.tInstr +
        (match s.cfg.transport with | .gpio8 => 8 | .gpio4 => 8 | .i2c => 0)

/-- R16: the canonical trace holds no `Delay(0)` and no two adjacent delays; it has every event that is no delay, in the
order they stood, with the delays of each stretch between two of them added where they stood; (a) a `Delay(0)` deleted or
(b) two adjacent delays added anywhere leaves it the same; it is its own canonical trace and takes the same least time. -/
def Obligations.CanonicalTraceIsCanonical : Prop :=
  (∀ t : List Event, Event.delay 0 ∉ canonTrace t ∧
    (canonTrace t).IsChain (fun a b => ¬ ∃ m n, a = .delay m ∧ b = .delay n) ∧
    (canonTrace t).filter (fun ev => !ev.isDelay) = t.filter (fun ev => !ev.isDelay) ∧
    canonTrace (canonTrace t) = canonTrace t ∧ minTime (canonTrace t) = minTime t) ∧
  (∀ (t u : List Event) (ev : Event), ev.isDelay = false →
    canonTrace (t ++ ev :: u) = canonTrace t ++ ev :: canonTrace u) ∧
  (∀ ns : List Nat, canonTrace (ns.map .delay) = delayTrace ns.sum) ∧
  (∀ t u : List Event, SameBehaviour (t ++ .delay 0 :: u) (t ++ u)) ∧
  (∀ (t u : List Event) (m n : Nat), SameBehaviour (t ++ .delay m :: .delay n :: u) (t ++ .delay (m + n) :: u))

/-! ## Errors -/

/-- Errors are precise: an operation that raises leaves the engine's state, the trace and the environment's answers
exactly as they were (R254, R256; D19). -/
def Obligations.ErrorsLeaveNothingBehind : Prop :=
  ∀ (i : Instr) (s t : State) (f : Fault), exec i s = .next t → t.outcome = some (.error f) →
    t.cfg = s.cfg ∧ t.x = s.x ∧ t.dir = s.dir ∧ t.trace = s.trace ∧ t.opTrace = [] ∧ t.inFlight = none ∧
    t.calls = s.calls ∧ t.levels = s.levels ∧ t.bytes = s.bytes ∧ t.draws = s.draws

/-- Which operation raises what, and when (R251, R252, R253). -/
def Obligations.WhichOperationRaisesWhat : Prop :=
  ∀ (i : Instr) (s t : State) (f : Fault), exec i s = .next t →
    (t.outcome = some (.error f) ↔
      (∃ a, i = .setcg a ∧ (a < 0 ∨ 63 < a) ∧ f = .addressOutOfRange .cgram a) ∨
      (∃ a, i = .setdd a ∧ (a < 0 ∨ 127 < a) ∧ f = .addressOutOfRange .ddram a) ∨
      (i.isRead = true ∧ s.cfg.transport ≠ .i2c ∧ s.cfg.hasRW = false ∧ f = .readOnWriteOnlyWiring) ∨
      (i.isRead = true ∧ s.cfg.transport = .i2c ∧ s.cfg.i2cReadable = false ∧ f = .readOnWriteOnlyExpander))

/-- After an error a later operation behaves as if the failed one had not been called, the model's own sticky mark apart
(R256; log 12). -/
def Obligations.AfterAnErrorAsIfNotCalled : Prop :=
  ∀ (i j : Instr) (s t u : State) (f : Fault), exec i s = .next t → t.outcome = some (.error f) → exec j t = .next u →
    ∃ u', exec j s = .next u' ∧ u = { u' with firstError := u.firstError }

/-- One operation at a time: while one is in flight every other is refused, and a step takes no call (R11, R288). That an
operation is in flight between two steps, in its poll loop, is the model's choice (log 10). -/
def Obligations.OneOperationAtATime : Prop :=
  ∀ (s : State) (v : Value), s.inFlight = some v →
    (∀ i : Instr, exec i s = .refused .operationInFlight) ∧ (∀ t, step s = .next t → t.calls = s.calls)

/-! ## Steps -/

/-- A STEP RUNS THE DECODED OPERATION: with nothing in flight, the next call, given as an operation or as a word that
decodes to one, is taken off the calls and run by `exec`, with nothing around it (R10; log 9). -/
def Obligations.StepRunsThePresentedOperation : Prop :=
  ∀ (s : State) (rest : List Call) (i : Instr), s.inFlight = none →
    (s.calls = .op i :: rest → step s = exec i { s with calls := rest }) ∧
    (∀ w : TransferWord, decode w = .ok i → s.calls = .word (w.setWidth 16) :: rest →
      step s = exec i { s with calls := rest })

/-- Each of the 38 reserved command bytes presented as a word is refused by name, and so is a container with a bit above bit 9 (R90,
R81; log 9). -/
def Obligations.ReservedWordsAreRefused : Prop :=
  ∀ (s : State) (rest : List Call) (w : BitVec 16), s.inFlight = none → s.calls = .word w :: rest →
    (∀ b : Byte, b = 0x00#8 ∨ b = 0x03#8 ∨ (0x10 ≤ b.toNat ∧ b.toNat < 0x40 ∧ b.extractLsb' 0 2 ≠ 0#2) →
      w = b.setWidth 16 → step s = .refused (.reservedCommandByte b)) ∧
    (0x400 ≤ w.toNat → step s = .refused (.notATransferWord w))

/-- The host's placing of a word, of the table's ten bits or of any other number of them: the very next step runs exactly
the operation it decodes to. The placing is the model's, for the loader the engine has not got, and no move of the spec's
caller: it also drops an operation in flight, which R298 lets no caller do (log 9, DESIGN CHOICE). -/
def Obligations.FetchWordIsRunNext : Prop :=
  ∀ (s : State) (nbits w : Nat) (i : Instr), decodeTableWord nbits w = some i →
    step (s.withFetchWord nbits w) = exec i { s with inFlight := none }

/-- Between operations the engine does nothing (R10, R298). That it still has a step is the model's choice (log 11). -/
def Obligations.IdleEngineDoesNothing : Prop :=
  ∀ s : State, s.inFlight = none → s.calls = [] → step s = .next s

/-- From a state the engine can be in, no step faults, and a step is refused only for a presented word that is no
operation, as R90's 38 bytes are. Both are the model's choices: operations do raise errors (R250, R253), and the model
gives an error as the outcome of its operation in a next state and not as a stop (log 12, DEDUCED); that a transfer word
can be presented at all, and is refused where it is no operation, is log 9 (DESIGN CHOICE). -/
def Obligations.StepStopsOnlyOnANonOperation : Prop :=
  ∀ s : State, EngineInv s →
    (∀ f, step s ≠ .fault f) ∧
    (∀ r, step s = .refused r → ∃ w rest, s.inFlight = none ∧ s.calls = .word w :: rest ∧
      ∀ i, decodeContainer w ≠ .ok i)

/-- The configuration never changes and the trace only grows (R21, R64, R179); the calls to come are taken from the front,
one at a time (log 9). -/
def Obligations.StepKeepsConfigurationAndGrowsTrace : Prop :=
  ∀ s t : State, step s = .next t → t.cfg = s.cfg ∧ (∃ u, t.trace = s.trace ++ u) ∧
    (t.calls = s.calls ∨ ∃ c, s.calls = c :: t.calls)

/-- What the engine does in a write, up to its completion wait, does not depend on the environment's answers (R14, R110):
two states that differ only in the answers go to states that differ only in the answers, and none is drawn. In `FIXED` mode
that is the whole operation. In `POLL` mode the spec's operation goes on with status reads, which draw answers and depend
on them (R196, R197); in the model they are later steps, after `exec` (log 10, DESIGN CHOICE), of which this says
nothing. -/
def Obligations.WritesDoNotDependOnAnswers : Prop :=
  ∀ (i : Instr) (s t : State) (ls : List Level) (bs : List Byte) (n : Nat), i.isRead = false → exec i s = .next t →
    exec i { s with levels := ls, bytes := bs, draws := n } = .next { t with levels := ls, bytes := bs, draws := n } ∧
    t.levels = s.levels ∧ t.bytes = s.bytes ∧ t.draws = s.draws ∧ (s.cfg.waitMode = .fixed → t.inFlight = none)

/-! ## Construction and invariants -/

/-- Construction with a well-formed configuration gives the trace of R281 and the state of R36; an ill-formed one is
refused (R21). The construction is D25's. R36 speaks of what the configuration owns. The values given here to what it does
not own are the model's (log 14, DESIGN CHOICE): RW without an RW line, DB3..DB0 on GPIO4, every line's latch and direction
on I2C, and the shadow byte on the GPIO variants. -/
def Obligations.ConstructionState : Prop :=
  ∀ c : Cfg,
    (c.wf = false → construct c = .refused .illFormedConfiguration) ∧
    (c.wf = true → ∃ t, construct c = .next t ∧ t.cfg = c ∧ t.x.rs = false ∧ t.x.rw = false ∧ t.x.e = false ∧
      t.x.db = Vector.replicate 8 false ∧ t.dir = Vector.replicate 8 .out ∧ t.inFlight = none ∧ t.outcome = none ∧
      t.firstError = none ∧
      (let low (l : Line) : List Event := [.initOut l, .set l false]
       let head := low .e ++ low .rs ++ (if c.hasRW then low .rw else [])
       match c.transport with
       | .gpio4 => t.trace = head ++ low (.db 4) ++ low (.db 5) ++ low (.db 6) ++ low (.db 7) ∧ t.x.xreg = 0#8
       | .gpio8 => t.trace = head ++ low (.db 0) ++ low (.db 1) ++ low (.db 2) ++ low (.db 3) ++ low (.db 4) ++
           low (.db 5) ++ low (.db 6) ++ low (.db 7) ∧ t.x.xreg = 0#8
       | .i2c => t.trace = [.bw c.i2cAddr (expanderByte c false false false 0#4)] ∧
           t.x.xreg = expanderByte c false false false 0#4))

/-- The reset state is the construction with the configuration the model names (log 2), and it meets the invariant. The
invariant's values for what that GPIO4 configuration does not own, the latches and directions of DB3..DB0 and the shadow
byte, are the model's (log 14, DESIGN CHOICE) and not R36's, which speaks of what is owned. -/
def Obligations.ResetIsConstructedAndSafe : Prop :=
  construct Cfg.initial = .next State.reset ∧ EngineInv State.reset

/-- Construction with any well-formed configuration establishes the invariant. The construction is D25's, and R36 and R281
speak of what the configuration owns. The invariant's values for the lines, directions and shadow byte it does not own
(`UnownedAtRest`) are the model's (log 14, DESIGN CHOICE). -/
def Obligations.ConstructionEstablishesInvariant : Prop :=
  ∀ (c : Cfg) (t : State), construct c = .next t → EngineInv t

/-- THE INVARIANT: every step from a state that meets it gives a state that meets it: enable is low (R27); each owned
line's latch and direction, or the expander's shadow, is what the trace last made it (R23, R24); lines that are not owned
are untouched (R22, R148), the values they keep being the model's (log 14, DESIGN CHOICE); and the whole trace keeps
the discipline of the wires (R54, R141, R147, R171, R178, R179, R192). -/
def Obligations.EveryStepKeepsInvariant : Prop :=
  ∀ s t : State, EngineInv s → step s = .next t → EngineInv t

/-- THE WIRES CARRY THE OPERATION: what the controller's pins see, at the falls of enable, of an operation that writes is,
up to its completion wait, exactly its transfers (R55, R57, R58, R60, R91, R241 to R243), on every transport; INIT
included. In `FIXED` mode that is the whole operation. In `POLL` mode the spec's operation goes on with the status reads of
its poll loop (R196, R197), which are later steps in the model, after `exec` (log 10, DESIGN CHOICE), and no part of this
statement. That the falling edge latches is G13 (log 25). -/
def Obligations.WiresCarryTheOperation : Prop :=
  ∀ (s : State) (i : Instr) (ts : List Transfer), s.cfg.wf = true → s.inFlight = none → i.isRead = false →
    encodeTransfers s.cfg.transport i = some ts →
    ∃ t, exec i s = .next t ∧ observe s.cfg .low t.opTrace = ts ∧ (s.cfg.waitMode = .fixed → t.inFlight = none)

/-- The pins see a read, up to its completion wait, as one transfer on GPIO8 and two on a 4-bit path, RW high, RS by the
port (R50, R52, R60). Of RDSTAT, and of RDDATA in `FIXED` mode, that is the whole operation. RDDATA in `POLL` mode goes on,
by R196, with status reads with RS low; they are later steps in the model, after `exec` (log 10, DESIGN CHOICE), and no
part of this statement. That the falling edge latches is G13 (log 25). -/
def Obligations.WiresCarryTheRead : Prop :=
  ∀ (s : State) (i : Instr), s.cfg.wf = true → s.inFlight = none → s.cfg.canRead = true → i.isRead = true →
    ∃ t, exec i s = .next t ∧
      (observe s.cfg .low t.opTrace).map (fun x => (x.rs, x.rw)) =
        List.replicate (if s.cfg.transport = .gpio8 then 1 else 2) (decide (i = .rddata), true) ∧
      (i = .rdstat ∨ s.cfg.waitMode = .fixed → t.inFlight = none)

/-- On a 4-bit path a step makes an even number of transfers, so the engine never changes the controller's nibble phase
from one operation to the next (R59, R295). -/
def Obligations.TransfersStayPaired : Prop :=
  ∀ s t : State, EngineInv s → s.cfg.transport ≠ .gpio8 → step s = .next t →
    ∃ u, t.trace = s.trace ++ u ∧ 2 ∣ (observe s.cfg .low u).length

/-! ## Trace equivalence of the machine's traces -/

/-- The traces the machine makes are, under R16's equivalence, the traces as the rules write them, with every `Delay(0)` of
a first nibble and every trailing delay in place (R142, R143, R145, R146, R161, R163, R172, R173, R175, R176): of a byte
write and a byte read with any trailing delay, and of an operation in `FIXED` mode, whose wait, made after a transfer with
trailing delay 0, is the same trace as passing the delay to the adapter (R196). On I2C the trailing delay of a read adds to
the 4 µs after its last de-assert. -/
def Obligations.MachineTracesAreTheRulesTraces : Prop :=
  (∀ (s : State) (rs : RegisterSelect) (v : Byte) (n : Nat), ∃ u, (writeByte rs v n s).trace = s.trace ++ u ∧
    SameBehaviour u (writeByteRuleTrace s.cfg s.dir (decide (rs = .data)) v n)) ∧
  (∀ (s : State) (rs : RegisterSelect) (n : Nat), s.cfg.canRead = true →
    ∃ t u, readByte rs n s = .ok (answeredByte s, t) ∧ t.trace = s.trace ++ u ∧
      SameBehaviour u (readByteRuleTrace s (decide (rs = .data)) n) ∧
      (s.cfg.transport = .i2c →
        let released (e : Level) : Event := .bw s.cfg.i2cAddr (expanderByte s.cfg (decide (rs = .data)) true e 0xF#4)
        SameBehaviour u (i2cReadTrace s.cfg (decide (rs = .data)) (s.answerByte 0) ++
          [released false, released true, .br s.cfg.i2cAddr (s.answerByte 1), released false, .delay (4 + n)]))) ∧
  (∀ (s : State) (i : Instr) (w : TransferWord), s.inFlight = none → s.cfg.waitMode = .fixed → i.isRead = false →
    encode i = some w → ∃ t, exec i s = .next t ∧ t.inFlight = none ∧
      SameBehaviour t.opTrace (writeByteRuleTrace s.cfg s.dir (w.getLsbD 9) (w.extractLsb' 0 8)
        (if i = .clear ∨ i = .home then 1520 else s.cfg.tInstr))) ∧
  (∀ s : State, s.inFlight = none → s.cfg.waitMode = .fixed → s.cfg.canRead = true → ∃ t, exec .rddata s = .next t ∧
    t.inFlight = none ∧ SameBehaviour t.opTrace (readByteRuleTrace s true s.cfg.tInstr))
end

