-- ==== Sys2Proof/Laws/State.lean ====
section
/-! SUPPORT. What each update of the state does to each field, true by unfolding the update once. -/

namespace Sys2Proof.Machine

/-! ### `State.emit` -/

@[simp] theorem State.emit_cfg (s : State) (ev : Event) : (s.emit ev).cfg = s.cfg := rfl
@[simp] theorem State.emit_x (s : State) (ev : Event) : (s.emit ev).x = s.x := rfl
@[simp] theorem State.emit_dir (s : State) (ev : Event) : (s.emit ev).dir = s.dir := rfl
@[simp] theorem State.emit_inFlight (s : State) (ev : Event) : (s.emit ev).inFlight = s.inFlight := rfl
@[simp] theorem State.emit_outcome (s : State) (ev : Event) : (s.emit ev).outcome = s.outcome := rfl
@[simp] theorem State.emit_firstError (s : State) (ev : Event) : (s.emit ev).firstError = s.firstError := rfl
@[simp] theorem State.emit_trace (s : State) (ev : Event) : (s.emit ev).trace = s.trace ++ [ev] := rfl
@[simp] theorem State.emit_opStart (s : State) (ev : Event) : (s.emit ev).opStart = s.opStart := rfl
@[simp] theorem State.emit_calls (s : State) (ev : Event) : (s.emit ev).calls = s.calls := rfl
@[simp] theorem State.emit_levels (s : State) (ev : Event) : (s.emit ev).levels = s.levels := rfl
@[simp] theorem State.emit_bytes (s : State) (ev : Event) : (s.emit ev).bytes = s.bytes := rfl
@[simp] theorem State.emit_draws (s : State) (ev : Event) : (s.emit ev).draws = s.draws := rfl

/-! ### `State.setLine` -/

@[simp] theorem State.setLine_cfg (s : State) (l : Line) (b : Level) : (s.setLine l b).cfg = s.cfg := rfl
@[simp] theorem State.setLine_x (s : State) (l : Line) (b : Level) : (s.setLine l b).x = s.x.latch l b := rfl
@[simp] theorem State.setLine_dir (s : State) (l : Line) (b : Level) : (s.setLine l b).dir = s.dir := rfl
@[simp] theorem State.setLine_inFlight (s : State) (l : Line) (b : Level) : (s.setLine l b).inFlight = s.inFlight := rfl
@[simp] theorem State.setLine_outcome (s : State) (l : Line) (b : Level) : (s.setLine l b).outcome = s.outcome := rfl
@[simp] theorem State.setLine_firstError (s : State) (l : Line) (b : Level) : (s.setLine l b).firstError = s.firstError := rfl
@[simp] theorem State.setLine_trace (s : State) (l : Line) (b : Level) : (s.setLine l b).trace = s.trace ++ [.set l b] := rfl
@[simp] theorem State.setLine_opStart (s : State) (l : Line) (b : Level) : (s.setLine l b).opStart = s.opStart := rfl
@[simp] theorem State.setLine_calls (s : State) (l : Line) (b : Level) : (s.setLine l b).calls = s.calls := rfl
@[simp] theorem State.setLine_levels (s : State) (l : Line) (b : Level) : (s.setLine l b).levels = s.levels := rfl
@[simp] theorem State.setLine_bytes (s : State) (l : Line) (b : Level) : (s.setLine l b).bytes = s.bytes := rfl
@[simp] theorem State.setLine_draws (s : State) (l : Line) (b : Level) : (s.setLine l b).draws = s.draws := rfl

/-! ### `State.turnOut` -/

@[simp] theorem State.turnOut_cfg (s : State) (k : Fin 8) : (s.turnOut k).cfg = s.cfg := rfl
@[simp] theorem State.turnOut_x (s : State) (k : Fin 8) : (s.turnOut k).x = s.x := rfl
@[simp] theorem State.turnOut_dir (s : State) (k : Fin 8) : (s.turnOut k).dir = s.dir.set k .out := rfl
@[simp] theorem State.turnOut_inFlight (s : State) (k : Fin 8) : (s.turnOut k).inFlight = s.inFlight := rfl
@[simp] theorem State.turnOut_outcome (s : State) (k : Fin 8) : (s.turnOut k).outcome = s.outcome := rfl
@[simp] theorem State.turnOut_firstError (s : State) (k : Fin 8) : (s.turnOut k).firstError = s.firstError := rfl
@[simp] theorem State.turnOut_trace (s : State) (k : Fin 8) : (s.turnOut k).trace = s.trace ++ [.initOut (.db k)] := rfl
@[simp] theorem State.turnOut_opStart (s : State) (k : Fin 8) : (s.turnOut k).opStart = s.opStart := rfl
@[simp] theorem State.turnOut_calls (s : State) (k : Fin 8) : (s.turnOut k).calls = s.calls := rfl
@[simp] theorem State.turnOut_levels (s : State) (k : Fin 8) : (s.turnOut k).levels = s.levels := rfl
@[simp] theorem State.turnOut_bytes (s : State) (k : Fin 8) : (s.turnOut k).bytes = s.bytes := rfl
@[simp] theorem State.turnOut_draws (s : State) (k : Fin 8) : (s.turnOut k).draws = s.draws := rfl

/-! ### `State.turnIn` -/

@[simp] theorem State.turnIn_cfg (s : State) (k : Fin 8) : (s.turnIn k).cfg = s.cfg := rfl
@[simp] theorem State.turnIn_x (s : State) (k : Fin 8) : (s.turnIn k).x = s.x := rfl
@[simp] theorem State.turnIn_dir (s : State) (k : Fin 8) : (s.turnIn k).dir = s.dir.set k .inp := rfl
@[simp] theorem State.turnIn_inFlight (s : State) (k : Fin 8) : (s.turnIn k).inFlight = s.inFlight := rfl
@[simp] theorem State.turnIn_outcome (s : State) (k : Fin 8) : (s.turnIn k).outcome = s.outcome := rfl
@[simp] theorem State.turnIn_firstError (s : State) (k : Fin 8) : (s.turnIn k).firstError = s.firstError := rfl
@[simp] theorem State.turnIn_trace (s : State) (k : Fin 8) : (s.turnIn k).trace = s.trace ++ [.initIn (.db k)] := rfl
@[simp] theorem State.turnIn_opStart (s : State) (k : Fin 8) : (s.turnIn k).opStart = s.opStart := rfl
@[simp] theorem State.turnIn_calls (s : State) (k : Fin 8) : (s.turnIn k).calls = s.calls := rfl
@[simp] theorem State.turnIn_levels (s : State) (k : Fin 8) : (s.turnIn k).levels = s.levels := rfl
@[simp] theorem State.turnIn_bytes (s : State) (k : Fin 8) : (s.turnIn k).bytes = s.bytes := rfl
@[simp] theorem State.turnIn_draws (s : State) (k : Fin 8) : (s.turnIn k).draws = s.draws := rfl

/-! ### `State.writeXreg` -/

@[simp] theorem State.writeXreg_cfg (s : State) (v : Byte) : (s.writeXreg v).cfg = s.cfg := rfl
@[simp] theorem State.writeXreg_x (s : State) (v : Byte) : (s.writeXreg v).x = { s.x with xreg := v } := rfl
@[simp] theorem State.writeXreg_dir (s : State) (v : Byte) : (s.writeXreg v).dir = s.dir := rfl
@[simp] theorem State.writeXreg_inFlight (s : State) (v : Byte) : (s.writeXreg v).inFlight = s.inFlight := rfl
@[simp] theorem State.writeXreg_outcome (s : State) (v : Byte) : (s.writeXreg v).outcome = s.outcome := rfl
@[simp] theorem State.writeXreg_firstError (s : State) (v : Byte) : (s.writeXreg v).firstError = s.firstError := rfl
@[simp] theorem State.writeXreg_trace (s : State) (v : Byte) : (s.writeXreg v).trace = s.trace ++ [.bw s.cfg.i2cAddr v] := rfl
@[simp] theorem State.writeXreg_opStart (s : State) (v : Byte) : (s.writeXreg v).opStart = s.opStart := rfl
@[simp] theorem State.writeXreg_calls (s : State) (v : Byte) : (s.writeXreg v).calls = s.calls := rfl
@[simp] theorem State.writeXreg_levels (s : State) (v : Byte) : (s.writeXreg v).levels = s.levels := rfl
@[simp] theorem State.writeXreg_bytes (s : State) (v : Byte) : (s.writeXreg v).bytes = s.bytes := rfl
@[simp] theorem State.writeXreg_draws (s : State) (v : Byte) : (s.writeXreg v).draws = s.draws := rfl

/-! ### `State.sample` -/

@[simp] theorem State.sample_value (s : State) (k : Fin 8) : (s.sample k).1 = s.answerLevel 0 := rfl
@[simp] theorem State.sample_cfg (s : State) (k : Fin 8) : (s.sample k).2.cfg = s.cfg := rfl
@[simp] theorem State.sample_x (s : State) (k : Fin 8) : (s.sample k).2.x = s.x := rfl
@[simp] theorem State.sample_dir (s : State) (k : Fin 8) : (s.sample k).2.dir = s.dir := rfl
@[simp] theorem State.sample_inFlight (s : State) (k : Fin 8) : (s.sample k).2.inFlight = s.inFlight := rfl
@[simp] theorem State.sample_outcome (s : State) (k : Fin 8) : (s.sample k).2.outcome = s.outcome := rfl
@[simp] theorem State.sample_firstError (s : State) (k : Fin 8) : (s.sample k).2.firstError = s.firstError := rfl
@[simp] theorem State.sample_trace (s : State) (k : Fin 8) : (s.sample k).2.trace = s.trace ++ [.get (.db k) (s.answerLevel 0)] := rfl
@[simp] theorem State.sample_opStart (s : State) (k : Fin 8) : (s.sample k).2.opStart = s.opStart := rfl
@[simp] theorem State.sample_calls (s : State) (k : Fin 8) : (s.sample k).2.calls = s.calls := rfl
@[simp] theorem State.sample_levels (s : State) (k : Fin 8) : (s.sample k).2.levels = s.levels.drop 1 := rfl
@[simp] theorem State.sample_bytes (s : State) (k : Fin 8) : (s.sample k).2.bytes = s.bytes := rfl
@[simp] theorem State.sample_draws (s : State) (k : Fin 8) : (s.sample k).2.draws = s.draws + 1 := rfl

/-! ### `State.busRead` -/

@[simp] theorem State.busRead_value (s : State) : (s.busRead).1 = s.answerByte 0 := rfl
@[simp] theorem State.busRead_cfg (s : State) : (s.busRead.2).cfg = s.cfg := rfl
@[simp] theorem State.busRead_x (s : State) : (s.busRead.2).x = s.x := rfl
@[simp] theorem State.busRead_dir (s : State) : (s.busRead.2).dir = s.dir := rfl
@[simp] theorem State.busRead_inFlight (s : State) : (s.busRead.2).inFlight = s.inFlight := rfl
@[simp] theorem State.busRead_outcome (s : State) : (s.busRead.2).outcome = s.outcome := rfl
@[simp] theorem State.busRead_firstError (s : State) : (s.busRead.2).firstError = s.firstError := rfl
@[simp] theorem State.busRead_trace (s : State) : (s.busRead.2).trace = s.trace ++ [.br s.cfg.i2cAddr (s.answerByte 0)] := rfl
@[simp] theorem State.busRead_opStart (s : State) : (s.busRead.2).opStart = s.opStart := rfl
@[simp] theorem State.busRead_calls (s : State) : (s.busRead.2).calls = s.calls := rfl
@[simp] theorem State.busRead_levels (s : State) : (s.busRead.2).levels = s.levels := rfl
@[simp] theorem State.busRead_bytes (s : State) : (s.busRead.2).bytes = s.bytes.drop 1 := rfl
@[simp] theorem State.busRead_draws (s : State) : (s.busRead.2).draws = s.draws + 1 := rfl

/-! ### `State.begin` -/

@[simp] theorem State.begin_cfg (s : State) : (s.begin).cfg = s.cfg := rfl
@[simp] theorem State.begin_x (s : State) : (s.begin).x = s.x := rfl
@[simp] theorem State.begin_dir (s : State) : (s.begin).dir = s.dir := rfl
@[simp] theorem State.begin_inFlight (s : State) : (s.begin).inFlight = s.inFlight := rfl
@[simp] theorem State.begin_outcome (s : State) : (s.begin).outcome = none := rfl
@[simp] theorem State.begin_firstError (s : State) : (s.begin).firstError = s.firstError := rfl
@[simp] theorem State.begin_trace (s : State) : (s.begin).trace = s.trace := rfl
@[simp] theorem State.begin_opStart (s : State) : (s.begin).opStart = s.trace.length := rfl
@[simp] theorem State.begin_calls (s : State) : (s.begin).calls = s.calls := rfl
@[simp] theorem State.begin_levels (s : State) : (s.begin).levels = s.levels := rfl
@[simp] theorem State.begin_bytes (s : State) : (s.begin).bytes = s.bytes := rfl
@[simp] theorem State.begin_draws (s : State) : (s.begin).draws = s.draws := rfl

/-! ### `State.finish` -/

@[simp] theorem State.finish_cfg (s : State) (v : Value) : (s.finish v).cfg = s.cfg := rfl
@[simp] theorem State.finish_x (s : State) (v : Value) : (s.finish v).x = s.x := rfl
@[simp] theorem State.finish_dir (s : State) (v : Value) : (s.finish v).dir = s.dir := rfl
@[simp] theorem State.finish_inFlight (s : State) (v : Value) : (s.finish v).inFlight = none := rfl
@[simp] theorem State.finish_outcome (s : State) (v : Value) : (s.finish v).outcome = some (.ok v) := rfl
@[simp] theorem State.finish_firstError (s : State) (v : Value) : (s.finish v).firstError = s.firstError := rfl
@[simp] theorem State.finish_trace (s : State) (v : Value) : (s.finish v).trace = s.trace := rfl
@[simp] theorem State.finish_opStart (s : State) (v : Value) : (s.finish v).opStart = s.opStart := rfl
@[simp] theorem State.finish_calls (s : State) (v : Value) : (s.finish v).calls = s.calls := rfl
@[simp] theorem State.finish_levels (s : State) (v : Value) : (s.finish v).levels = s.levels := rfl
@[simp] theorem State.finish_bytes (s : State) (v : Value) : (s.finish v).bytes = s.bytes := rfl
@[simp] theorem State.finish_draws (s : State) (v : Value) : (s.finish v).draws = s.draws := rfl

/-! ### `State.raise` -/

@[simp] theorem State.raise_cfg (s : State) (f : Fault) : (s.raise f).cfg = s.cfg := rfl
@[simp] theorem State.raise_x (s : State) (f : Fault) : (s.raise f).x = s.x := rfl
@[simp] theorem State.raise_dir (s : State) (f : Fault) : (s.raise f).dir = s.dir := rfl
@[simp] theorem State.raise_inFlight (s : State) (f : Fault) : (s.raise f).inFlight = s.inFlight := rfl
@[simp] theorem State.raise_outcome (s : State) (f : Fault) : (s.raise f).outcome = some (.error f) := rfl
@[simp] theorem State.raise_firstError (s : State) (f : Fault) : (s.raise f).firstError = s.firstError.or (some f) := rfl
@[simp] theorem State.raise_trace (s : State) (f : Fault) : (s.raise f).trace = s.trace := rfl
@[simp] theorem State.raise_opStart (s : State) (f : Fault) : (s.raise f).opStart = s.opStart := rfl
@[simp] theorem State.raise_calls (s : State) (f : Fault) : (s.raise f).calls = s.calls := rfl
@[simp] theorem State.raise_levels (s : State) (f : Fault) : (s.raise f).levels = s.levels := rfl
@[simp] theorem State.raise_bytes (s : State) (f : Fault) : (s.raise f).bytes = s.bytes := rfl
@[simp] theorem State.raise_draws (s : State) (f : Fault) : (s.raise f).draws = s.draws := rfl

/-! ### `State.withFetchWord` -/

@[simp] theorem State.withFetchWord_cfg (s : State) (nbits w : Nat) : (s.withFetchWord nbits w).cfg = s.cfg := rfl
@[simp] theorem State.withFetchWord_x (s : State) (nbits w : Nat) : (s.withFetchWord nbits w).x = s.x := rfl
@[simp] theorem State.withFetchWord_dir (s : State) (nbits w : Nat) : (s.withFetchWord nbits w).dir = s.dir := rfl
@[simp] theorem State.withFetchWord_inFlight (s : State) (nbits w : Nat) : (s.withFetchWord nbits w).inFlight = none := rfl
@[simp] theorem State.withFetchWord_outcome (s : State) (nbits w : Nat) : (s.withFetchWord nbits w).outcome = s.outcome := rfl
@[simp] theorem State.withFetchWord_firstError (s : State) (nbits w : Nat) : (s.withFetchWord nbits w).firstError = s.firstError := rfl
@[simp] theorem State.withFetchWord_trace (s : State) (nbits w : Nat) : (s.withFetchWord nbits w).trace = s.trace := rfl
@[simp] theorem State.withFetchWord_opStart (s : State) (nbits w : Nat) : (s.withFetchWord nbits w).opStart = s.opStart := rfl
@[simp] theorem State.withFetchWord_calls (s : State) (nbits w : Nat) : (s.withFetchWord nbits w).calls = .word (BitVec.ofNat 16 (w % 2 ^ min nbits 16)) :: s.calls := rfl
@[simp] theorem State.withFetchWord_levels (s : State) (nbits w : Nat) : (s.withFetchWord nbits w).levels = s.levels := rfl
@[simp] theorem State.withFetchWord_bytes (s : State) (nbits w : Nat) : (s.withFetchWord nbits w).bytes = s.bytes := rfl
@[simp] theorem State.withFetchWord_draws (s : State) (nbits w : Nat) : (s.withFetchWord nbits w).draws = s.draws := rfl

end Sys2Proof.Machine
end

