-- ==== Sys2Proof/Laws/Ops.lean ====
section
/-! SUPPORT. The laws of the primitives: what latching, delaying, driving, releasing and answering do, each said
once. -/

namespace Sys2Proof.Machine

/-! ### Latches: read after write -/

@[simp] theorem Latches.level_latch_same (x : Latches) (l : Line) (b : Level) : (x.latch l b).level l = b := by
  cases l <;> simp [Latches.latch, Latches.level]

theorem Latches.level_latch_other (x : Latches) {l l' : Line} (b : Level) (h : l' ≠ l) :
    (x.latch l b).level l' = x.level l' := by
  cases l with
  | db k =>
    cases l' with
    | db k' =>
      have hk : k.val ≠ k'.val := fun e => h (by rw [Fin.ext e])
      simp [Latches.latch, Latches.level, Vector.getElem_set_ne, hk]
    | _ => rfl
  | _ => cases l' <;> first | rfl | exact absurd rfl h

@[simp] theorem Latches.latch_xreg (x : Latches) (l : Line) (b : Level) : (x.latch l b).xreg = x.xreg := by
  cases l <;> rfl

/-! ### Delays -/

theorem State.delay_eq (n : Nat) (s : State) : s.delay n = { s with trace := s.trace ++ delayTrace n } := by
  unfold State.delay delayTrace
  split <;> simp [State.emit]

theorem delayTrace_pos {n : Nat} (h : n ≠ 0) : delayTrace n = [.delay n] := if_neg h

@[simp] theorem delayTrace_zero : delayTrace 0 = [] := rfl

@[simp] theorem minTime_delayTrace (n : Nat) : minTime (delayTrace n) = n := by
  unfold delayTrace; split <;> simp_all [minTime]

theorem minTime_append (t u : List Event) : minTime (t ++ u) = minTime t + minTime u := by
  induction t with
  | nil => simp [minTime]
  | cons ev t ih => cases ev <;> simp [minTime, ih, Nat.add_assoc]

/-! ### RW, where owned -/

theorem State.setRW_eq (b : Level) (s : State) :
    s.setRW b = { s with trace := s.trace ++ (if s.cfg.hasRW then [.set .rw b] else [])
                         x := { s.x with rw := if s.cfg.hasRW then b else s.x.rw } } := by
  unfold State.setRW
  split <;> simp_all [State.setLine, Latches.latch]

theorem setControl_eq (rs rw : Level) (s : State) :
    setControl rs rw s =
      { s with trace := s.trace ++ controlTrace s.cfg rs rw
               x := { s.x with rs := rs, rw := if s.cfg.hasRW then rw else s.x.rw, e := false } } := by
  simp [setControl, State.setRW_eq, State.setLine, Latches.latch, controlTrace]

/-! ### One data line -/

theorem driveLine_eq (k : Fin 8) (b : Level) (s : State) :
    driveLine k b s =
      { s with trace := s.trace ++ driveTrace s.dir[k] k b, x := s.x.latch (.db k) b, dir := s.dir.set k .out } := by
  unfold driveLine driveTrace
  split
  · simp [State.turnOut, State.setLine]
  · next h =>
    have hd : s.dir[k] = .out := by cases hk : s.dir[k] <;> simp_all
    have hs : s.dir.set k .out = s.dir := by rw [← hd]; simp
    simp [State.setLine, hs]

theorem releaseLine_eq (k : Fin 8) (s : State) :
    releaseLine k s = { s with trace := s.trace ++ releaseTrace s.dir[k] k, dir := s.dir.set k .inp } := by
  unfold releaseLine releaseTrace
  split
  · simp [State.turnIn]
  · next h =>
    have hd : s.dir[k] = .inp := by cases hk : s.dir[k] <;> simp_all
    have hs : s.dir.set k .inp = s.dir := by rw [← hd]; simp
    simp [hs]

/-! ### Answers -/

theorem State.answerLevel_sample (k : Fin 8) (s : State) (n : Nat) :
    (s.sample k).2.answerLevel n = s.answerLevel (n + 1) := by
  simp [State.answerLevel, Nat.add_comm, Nat.add_left_comm]

theorem State.answerByte_busRead (s : State) (n : Nat) : s.busRead.2.answerByte n = s.answerByte (n + 1) := by
  simp [State.answerByte, Nat.add_comm, Nat.add_left_comm]

/-! ### Presenting an operation -/

theorem present_idle {op : State → State} {s : State} (h : s.inFlight = none) : present op s = .next (op s.begin) := by
  simp [present, h]

theorem present_busy {op : State → State} {s : State} {v : Value} (h : s.inFlight = some v) :
    present op s = .refused .operationInFlight := by
  simp [present, h]

theorem present_next {op : State → State} {s t : State} (h : present op s = .next t) :
    s.inFlight = none ∧ t = op s.begin := by
  unfold present at h
  split at h
  · cases h
  · next hn => cases h; exact ⟨hn, rfl⟩

theorem present_no_fault {op : State → State} {s : State} {f : Fault} : present op s ≠ .fault f := by
  unfold present; split <;> simp

end Sys2Proof.Machine
end

