-- ==== Sys2Proof/Laws/Adapter.lean ====
section
/-! SUPPORT. Everything the line loops of the GPIO adapters and one expander transfer can do, each in closed form. -/

namespace Sys2Proof.Machine

/-- Step 4 of a write over a list of lines without repeats. -/
theorem driveLines_eq (v : Byte) (ks : List (Fin 8)) (s : State) (h : ks.Nodup) :
    driveLines v ks s =
      { s with trace := s.trace ++ (ks.map fun k => driveTrace s.dir[k] k (v.getLsbD k)).flatten
               x := { s.x with db := ks.foldl (fun d (k : Fin 8) => d.set k (v.getLsbD k)) s.x.db }
               dir := ks.foldl (fun d (k : Fin 8) => d.set k .out) s.dir } := by
  induction ks generalizing s with
  | nil => simp [driveLines]
  | cons k ks ih =>
    have hk : k ∉ ks := (List.nodup_cons.mp h).1
    have hmap : ∀ j ∈ ks, driveTrace (s.dir.set k .out)[j] j (v.getLsbD j) = driveTrace s.dir[j] j (v.getLsbD j) := by
      intro j hj
      have hne : k.val ≠ j.val := fun e => hk (by rw [Fin.ext e]; exact hj)
      simp [Vector.getElem_set_ne, hne]
    rw [driveLines, ih _ (List.nodup_cons.mp h).2, driveLine_eq]
    simp only [List.map_congr_left hmap]
    simp [Latches.latch]

/-- Step 4 of a read over a list of lines without repeats. -/
theorem releaseLines_eq (ks : List (Fin 8)) (s : State) (h : ks.Nodup) :
    releaseLines ks s =
      { s with trace := s.trace ++ (ks.map fun k => releaseTrace s.dir[k] k).flatten
               dir := ks.foldl (fun d (k : Fin 8) => d.set k .inp) s.dir } := by
  induction ks generalizing s with
  | nil => simp [releaseLines]
  | cons k ks ih =>
    have hk : k ∉ ks := (List.nodup_cons.mp h).1
    have hmap : ∀ j ∈ ks, releaseTrace (s.dir.set k .inp)[j] j = releaseTrace s.dir[j] j := by
      intro j hj
      have hne : k.val ≠ j.val := fun e => hk (by rw [Fin.ext e]; exact hj)
      simp [Vector.getElem_set_ne, hne]
    rw [releaseLines, ih _ (List.nodup_cons.mp h).2, releaseLine_eq]
    simp only [List.map_congr_left hmap]
    simp

/-- The environment's next answers, as the `Get` events of sampling a list of lines in order. -/
def sampleTrace (s : State) : List (Fin 8) → Nat → List Event
  | [], _ => []
  | k :: ks, n => .get (.db k) (s.answerLevel n) :: sampleTrace s ks (n + 1)

/-- The bits sampled from a list of lines in order, from the `n`-th answer on. -/
def sampledBits (s : State) : List (Fin 8) → Nat → Byte → Byte
  | [], _, r => r
  | k :: ks, n, r => sampledBits s ks (n + 1) (r ||| (BitVec.ofBool (s.answerLevel n)).setWidth 8 <<< k.val)

theorem sampleTrace_sample (s : State) (j : Fin 8) (ks : List (Fin 8)) (n : Nat) :
    sampleTrace (s.sample j).2 ks n = sampleTrace s ks (n + 1) := by
  induction ks generalizing n with
  | nil => rfl
  | cons k ks ih => simp [sampleTrace, ih, State.answerLevel_sample]

theorem sampledBits_sample (s : State) (j : Fin 8) (ks : List (Fin 8)) (n : Nat) (r : Byte) :
    sampledBits (s.sample j).2 ks n r = sampledBits s ks (n + 1) r := by
  induction ks generalizing n r with
  | nil => rfl
  | cons k ks ih => simp [sampledBits, ih, State.answerLevel_sample]

/-- Step 7a of a read. -/
theorem sampleLines_eq (ks : List (Fin 8)) (r : Byte) (s : State) :
    sampleLines ks r s =
      (sampledBits s ks 0 r,
       { s with trace := s.trace ++ sampleTrace s ks 0, levels := s.levels.drop ks.length
                draws := s.draws + ks.length }) := by
  induction ks generalizing r s with
  | nil => simp [sampleLines, sampledBits, sampleTrace]
  | cons k ks ih =>
    rw [sampleLines, ih, sampledBits_sample, sampleTrace_sample]
    simp [sampledBits, sampleTrace, Nat.add_comm, Nat.add_assoc]

/-- What is sampled depends on the answers alone. -/
theorem sampled_congr {u s : State} (hl : u.levels = s.levels) (hd : u.draws = s.draws) (ks : List (Fin 8)) (n : Nat)
    (r : Byte) : sampledBits u ks n r = sampledBits s ks n r ∧ sampleTrace u ks n = sampleTrace s ks n := by
  have ha : ∀ m, u.answerLevel m = s.answerLevel m := fun m => by simp [State.answerLevel, hl, hd]
  induction ks generalizing n r with
  | nil => exact ⟨rfl, rfl⟩
  | cons k ks ih => simp only [sampledBits, sampleTrace, ha]; exact ⟨(ih _ _).1, by rw [(ih _ 0#8).2]⟩

/-- One write transfer, in closed form. -/
theorem gpioWrite_eq (lines : List (Fin 8)) (h : lines.Nodup) (rs : RegisterSelect) (v : Byte) (n : Nat) (s : State) :
    gpioWrite lines rs v n s =
      { s with trace := s.trace ++ gpioWriteTrace s.cfg s.dir lines (rsLevel rs) v ++ delayTrace n
               x := { s.x with rs := rsLevel rs, rw := if s.cfg.hasRW then false else s.x.rw, e := false
                               db := lines.foldl (fun d (k : Fin 8) => d.set k (v.getLsbD k)) s.x.db }
               dir := lines.foldl (fun d (k : Fin 8) => d.set k .out) s.dir } := by
  simp [gpioWrite, State.delay_eq, driveLines_eq _ _ _ h, setControl_eq, State.setLine, gpioWriteTrace, Latches.latch,
    delayTrace, tSettle, tPulse, rwWrite]

/-- One read transfer, in closed form. -/
theorem gpioRead_eq (lines : List (Fin 8)) (h : lines.Nodup) (rs : RegisterSelect) (n : Nat) (s : State) :
    gpioRead lines rs n s =
      (sampledBits s lines 0 0#8,
       { s with trace := s.trace ++ (controlTrace s.cfg (rsLevel rs) true ++
                  (lines.map fun k => releaseTrace s.dir[k] k).flatten ++ [.delay 1, .set .e true, .delay 1] ++
                  sampleTrace s lines 0 ++ [.set .e false]) ++ delayTrace n
                x := { s.x with rs := rsLevel rs, rw := if s.cfg.hasRW then true else s.x.rw, e := false }
                dir := lines.foldl (fun d (k : Fin 8) => d.set k .inp) s.dir
                levels := s.levels.drop lines.length, draws := s.draws + lines.length }) := by
  simp only [gpioRead, State.delay_eq, releaseLines_eq _ _ h, setControl_eq, State.setLine, sampleLines_eq,
    Latches.latch, tSettle, tPulse, rwRead]
  refine Prod.ext ?_ ?_
  · refine (sampled_congr ?_ ?_ _ _ _).1 <;> rfl
  · simp [delayTrace]
    refine (sampled_congr ?_ ?_ _ _ 0#8).2 <;> rfl

/-- The trace of a write depends on the directions of its own lines alone. -/
theorem gpioWriteTrace_congr {c : Cfg} {d d' : Vector Dir 8} {lines : List (Fin 8)} (h : ∀ k ∈ lines, d[k] = d'[k])
    (rs : Level) (v : Byte) : gpioWriteTrace c d lines rs v = gpioWriteTrace c d' lines rs v := by
  have : (lines.map fun k => driveTrace d[k] k (v.getLsbD k)) = lines.map fun k => driveTrace d'[k] k (v.getLsbD k) :=
    List.map_congr_left fun k hk => by rw [h k hk]
  unfold gpioWriteTrace
  rw [this]

/-! ### Setting all the lines of an adapter -/

theorem lines_ext {α : Type} {a b : Vector α 8} (h : ∀ k : Fin 8, a[k] = b[k]) : a = b :=
  Vector.ext fun i hi => h ⟨i, hi⟩

theorem setLines_gpio8 {α : Type} (d : Vector α 8) (f : Fin 8 → α) :
    gpio8Lines.foldl (fun d (k : Fin 8) => d.set k (f k)) d = Vector.ofFn f :=
  lines_ext fun k => by fin_cases k <;> simp [gpio8Lines]

theorem setLines_gpio4 {α : Type} (d : Vector α 8) (f : Fin 8 → α) :
    gpio4Lines.foldl (fun d (k : Fin 8) => d.set k (f k)) d = Vector.ofFn fun k => if 4 ≤ k.val then f k else d[k] :=
  lines_ext fun k => by fin_cases k <;> simp [gpio4Lines]

theorem lines_const {α : Type} (a : α) : (Vector.ofFn fun _ : Fin 8 => a) = Vector.replicate 8 a :=
  lines_ext fun k => by simp

theorem onHighLines_eq (d : Nibble) : onHighLines d = d ++ 0#4 := by revert d; decide

theorem rsLevel_eq (rs : RegisterSelect) : rsLevel rs = decide (rs = .data) := by cases rs <;> rfl

/-- One write transfer of GPIO4. -/
theorem gpioWrite_gpio4 (rs : RegisterSelect) (v : Byte) (n : Nat) (s : State) :
    gpioWrite gpio4Lines rs v n s =
      { s with trace := s.trace ++ gpioWriteTrace s.cfg s.dir [4, 5, 6, 7] (rsLevel rs) v ++ delayTrace n
               x := { s.x with rs := rsLevel rs, rw := !s.cfg.hasRW && s.x.rw, e := false
                               db := Vector.ofFn fun k => if 4 ≤ k.val then v.getLsbD k else s.x.db[k] }
               dir := Vector.ofFn fun k => if 4 ≤ k.val then .out else s.dir[k] } := by
  rw [gpioWrite_eq gpio4Lines (by decide), setLines_gpio4, setLines_gpio4]
  cases s.cfg.hasRW <;> rfl

/-- One write transfer of GPIO8. -/
theorem gpioWrite_gpio8 (rs : RegisterSelect) (v : Byte) (n : Nat) (s : State) :
    gpioWrite gpio8Lines rs v n s =
      { s with trace := s.trace ++ gpioWriteTrace s.cfg s.dir [0, 1, 2, 3, 4, 5, 6, 7] (rsLevel rs) v ++ delayTrace n
               x := { s.x with rs := rsLevel rs, rw := !s.cfg.hasRW && s.x.rw, e := false
                               db := Vector.ofFn fun k => v.getLsbD k }
               dir := Vector.replicate 8 .out } := by
  rw [gpioWrite_eq gpio8Lines (by decide), setLines_gpio8, setLines_gpio8, lines_const]
  cases s.cfg.hasRW <;> rfl

/-- After a GPIO4 transfer its lines have one direction, so the next write's trace is that of lines all driven. -/
theorem gpioWriteTrace_after_gpio4 (c : Cfg) (d : Vector Dir 8) (rs : Level) (v : Byte) :
    gpioWriteTrace c (Vector.ofFn fun k => if 4 ≤ k.val then .out else d[k]) [4, 5, 6, 7] rs v =
      gpioWriteTrace c (Vector.replicate 8 .out) [4, 5, 6, 7] rs v := by
  apply gpioWriteTrace_congr
  intro k hk
  simp only [List.mem_cons, List.not_mem_nil, or_false] at hk
  rcases hk with rfl | rfl | rfl | rfl <;> simp

/-- A write transfer changes the trace, the latches and the directions, and nothing else. -/
theorem gpioWrite_frame (lines : List (Fin 8)) (h : lines.Nodup) (rs : RegisterSelect) (v : Byte) (n : Nat) (s : State) :
    ∃ tr x dir, gpioWrite lines rs v n s = { s with trace := s.trace ++ tr, x := x, dir := dir } := by
  simp [gpioWrite, State.delay_eq, driveLines_eq _ _ _ h, setControl_eq, State.setLine]

/-- A read transfer changes the trace, the latches, the directions and the answers drawn, and nothing else. -/
theorem gpioRead_frame (lines : List (Fin 8)) (h : lines.Nodup) (rs : RegisterSelect) (n : Nat) (s : State) :
    ∃ tr x dir, (gpioRead lines rs n s).2 =
      { s with trace := s.trace ++ tr, x := x, dir := dir, levels := s.levels.drop lines.length
               draws := s.draws + lines.length } := by
  simp [gpioRead, State.delay_eq, releaseLines_eq _ _ h, setControl_eq, State.setLine, sampleLines_eq]

theorem i2cWriteNibble_frame (rs : RegisterSelect) (d : Nibble) (n : Nat) (s : State) :
    ∃ tr x, i2cWriteNibble rs d n s = { s with trace := s.trace ++ tr, x := x } := by
  simp [i2cWriteNibble, i2cWrite, State.delay_eq, State.writeXreg]

theorem i2cReadNibble_frame (rs : RegisterSelect) (n : Nat) (s : State) :
    ∃ tr x, (i2cReadNibble rs n s).2 =
      { s with trace := s.trace ++ tr, x := x, bytes := s.bytes.drop 1, draws := s.draws + 1 } := by
  simp [i2cReadNibble, i2cWrite, State.delay_eq, State.writeXreg, State.busRead]

end Sys2Proof.Machine
end

