-- ==== Sys2Proof/Laws/Driver.lean ====
section
/-! SUPPORT. Each operation as one function of the state it begins in, and what each shared path of the driver can
do. -/

namespace Sys2Proof.Machine

/-- The body of an operation: what it does from the state it begins in. -/
def opBody : Instr → State → State
  | .clear => issue encodeClear
  | .home => issue encodeHome
  | .entry increment shift => issue (encodeEntryMode increment shift)
  | .display on cursorOn blink => issue (encodeDisplayControl on cursorOn blink)
  | .shift moveCursor moveRight => issue (encodeShift moveCursor moveRight)
  | .funcset eightBit twoLine font5x10 => issue (encodeFunctionSet eightBit twoLine font5x10)
  | .setcg addr => issueOrRaise (encodeSetCgramAddress addr)
  | .setdd addr => issueOrRaise (encodeSetDdramAddress addr)
  | .wrdata v => issue (encodeWriteData v)
  | .rddata => fetch .data .instr .byte
  | .rdstat => fetch .command .poll fun b => .status (decodeStatus b)
  | .init => fun s => (initManually s).finish .absent

theorem exec_eq_present (i : Instr) (s : State) : exec i s = present (opBody i) s := by cases i <;> rfl

/-- All that `exec` can do: run the body of an idle engine's operation, or refuse a second one. -/
theorem exec_cases (i : Instr) (s : State) :
    (s.inFlight = none ∧ exec i s = .next (opBody i s.begin)) ∨
    (s.inFlight ≠ none ∧ exec i s = .refused .operationInFlight) := by
  rw [exec_eq_present]
  cases h : s.inFlight with
  | none => exact .inl ⟨rfl, present_idle h⟩
  | some v => exact .inr ⟨by simp, present_busy h⟩

theorem exec_next {i : Instr} {s t : State} (h : exec i s = .next t) : s.inFlight = none ∧ t = opBody i s.begin :=
  present_next (by rwa [exec_eq_present] at h)

/-! ### The capability test -/

theorem readError_none_iff (c : Cfg) : readError c = none ↔ c.canRead = true := by
  unfold readError Cfg.canRead
  cases c.transport <;> simp

theorem readByte_ok {s : State} (h : s.cfg.canRead = true) (rs : RegisterSelect) (n : Nat) :
    readByte rs n s = .ok (readByteBody rs n s) := by
  simp [readByte, (readError_none_iff _).mpr h]

theorem readByte_error {s : State} {f : Fault} (h : readError s.cfg = some f) (rs : RegisterSelect) (n : Nat) :
    readByte rs n s = .error f := by
  simp [readByte, h]

/-! ### What a byte transfer leaves unchanged -/

/-- A written byte changes the trace, the latches and the directions, and nothing else. -/
theorem writeByte_frame (rs : RegisterSelect) (v : Byte) (n : Nat) (s : State) :
    ∃ tr x dir, writeByte rs v n s = { s with trace := s.trace ++ tr, x := x, dir := dir } := by
  unfold writeByte
  split
  · obtain ⟨t1, x1, d1, h1⟩ := gpioWrite_frame gpio4Lines (by decide) rs (onHighLines (highNibble v)) 0 s
    obtain ⟨t2, x2, d2, h2⟩ := gpioWrite_frame gpio4Lines (by decide) rs (onHighLines (lowNibble v)) n
      (gpioWrite gpio4Lines rs (onHighLines (highNibble v)) 0 s)
    exact ⟨t1 ++ t2, x2, d2, by rw [h1] at h2; simpa [gpio4WriteNibble, h1] using h2⟩
  · exact gpioWrite_frame gpio8Lines (by decide) rs v n s
  · obtain ⟨t1, x1, h1⟩ := i2cWriteNibble_frame rs (highNibble v) 0 s
    obtain ⟨t2, x2, h2⟩ := i2cWriteNibble_frame rs (lowNibble v) n (i2cWriteNibble rs (highNibble v) 0 s)
    exact ⟨t1 ++ t2, x2, s.dir, by rw [h1] at h2; simpa [h1] using h2⟩

/-- A read byte changes the trace, the latches, the directions and the answers drawn, and nothing else. -/
theorem readByteBody_frame (rs : RegisterSelect) (n : Nat) (s : State) :
    ∃ tr x dir ls bs k, (readByteBody rs n s).2 =
      { s with trace := s.trace ++ tr, x := x, dir := dir, levels := ls, bytes := bs, draws := k } := by
  unfold readByteBody
  split
  · obtain ⟨t1, x1, d1, h1⟩ := gpioRead_frame gpio4Lines (by decide) rs 0 s
    obtain ⟨t2, x2, d2, h2⟩ := gpioRead_frame gpio4Lines (by decide) rs n (gpioRead gpio4Lines rs 0 s).2
    exact ⟨t1 ++ t2, x2, d2, _, s.bytes, _, by rw [h1] at h2; simpa [gpio4ReadNibble, h1] using h2⟩
  · obtain ⟨t1, x1, d1, h1⟩ := gpioRead_frame gpio8Lines (by decide) rs n s
    exact ⟨t1, x1, d1, _, s.bytes, _, h1⟩
  · obtain ⟨t1, x1, h1⟩ := i2cReadNibble_frame rs 0 s
    obtain ⟨t2, x2, h2⟩ := i2cReadNibble_frame rs n (i2cReadNibble rs 0 s).2
    exact ⟨t1 ++ t2, x2, s.dir, s.levels, _, _, by rw [h1] at h2; simpa [h1] using h2⟩

/-! ### Completion and the poll loop -/

/-- All the ways an operation's wait can go (R195, R196). -/
theorem complete_cases (cls : DelayClass) (v : Value) (s : State) :
    (cls = .clearHome ∧ complete cls v s = (s.delay 1520).finish v) ∨
    (cls = .instr ∧ s.cfg.waitMode = .fixed ∧ complete cls v s = (s.delay s.cfg.tInstr).finish v) ∨
    (cls = .instr ∧ s.cfg.waitMode = .poll ∧ complete cls v s = { s with inFlight := some v }) ∨
    (cls = .poll ∧ complete cls v s = s.finish v) := by
  cases cls with
  | clearHome => exact .inl ⟨rfl, rfl⟩
  | instr =>
    cases h : s.cfg.waitMode with
    | fixed => exact .inr (.inl ⟨rfl, rfl, by simp [complete, h]⟩)
    | poll => exact .inr (.inr (.inl ⟨rfl, rfl, by simp [complete, h]⟩))
  | poll => exact .inr (.inr (.inr ⟨rfl, rfl⟩))

/-- All that an iteration of the poll loop can do (R197). -/
theorem pollOnce_cases (v : Value) (s : State) :
    (s.cfg.canRead = true ∧ busyFlag (readByteBody .command 0 s).1 = true ∧
      pollOnce v s = .next (readByteBody .command 0 s).2) ∨
    (s.cfg.canRead = true ∧ busyFlag (readByteBody .command 0 s).1 = false ∧
      pollOnce v s = .next ((readByteBody .command 0 s).2.finish v)) ∨
    (s.cfg.canRead = false ∧ pollOnce v s = .refused .illFormedConfiguration) := by
  cases hc : s.cfg.canRead with
  | true =>
    cases hb : busyFlag (readByteBody .command 0 s).1 with
    | true => exact .inl ⟨rfl, rfl, by simp [pollOnce, tPoll, readByte_ok hc, hb]⟩
    | false => exact .inr (.inl ⟨rfl, rfl, by simp [pollOnce, tPoll, readByte_ok hc, hb]⟩)
  | false =>
    refine .inr (.inr ⟨rfl, ?_⟩)
    cases he : readError s.cfg with
    | none => exact absurd ((readError_none_iff _).mp he) (by simp [hc])
    | some f => simp [pollOnce, readByte_error he]

/-! ### The two common paths -/

theorem fetch_ok {s : State} (h : s.cfg.canRead = true) (rs : RegisterSelect) (cls : DelayClass) (ret : Byte → Value) :
    fetch rs cls ret s = complete cls (ret (readByteBody rs 0 s).1) (readByteBody rs 0 s).2 := by
  simp [fetch, readByte_ok h]

theorem fetch_error {s : State} {f : Fault} (h : readError s.cfg = some f) (rs : RegisterSelect) (cls : DelayClass)
    (ret : Byte → Value) : fetch rs cls ret s = s.raise f := by
  simp [fetch, readByte_error h]

theorem checkAddress_ok_iff (r : Region) (a b : Int) :
    checkAddress r a = .ok b ↔ a = b ∧ 0 ≤ a ∧ a ≤ regionTop r := by
  unfold checkAddress
  split <;> simp <;> omega

theorem checkAddress_error_iff (r : Region) (a : Int) (f : Fault) :
    checkAddress r a = .error f ↔ f = .addressOutOfRange r a ∧ (a < 0 ∨ regionTop r < a) := by
  unfold checkAddress
  split <;> simp_all [eq_comm]

end Sys2Proof.Machine
end

