-- ==== Sys2Proof/Laws/PerInstr.lean ====
section
/-! SUPPORT. A statement about every operation, with one lemma per constructor: RS and RW of its word. -/

namespace Sys2Proof.Laws.Direction

/-- The word of an operation has RS high exactly for the two data operations and RW high exactly for the two reads
(R50, R51, R52, R82). -/
def Statement (i : Instr) : Prop :=
  ∀ w, encode i = some w →
    w.getLsbD 9 = decide (i.mnemonic = "WRDATA" ∨ i.mnemonic = "RDDATA") ∧ w.getLsbD 8 = i.isRead

/-- The control bits of a word are those it was made of. -/
theorem transferWord_control (rs rw : Level) (b : Byte) :
    (transferWord rs rw b).getLsbD 9 = rs ∧ (transferWord rs rw b).getLsbD 8 = rw := by
  unfold transferWord
  constructor
  · refine (BitVec.getLsbD_append (x := BitVec.ofBool rs ++ BitVec.ofBool rw) (y := b) (i := 9)).trans ?_
    cases rs <;> cases rw <;> rfl
  · refine (BitVec.getLsbD_append (x := BitVec.ofBool rs ++ BitVec.ofBool rw) (y := b) (i := 8)).trans ?_
    cases rs <;> cases rw <;> rfl

theorem clear : Statement .clear := by
  rintro w ⟨⟩; exact transferWord_control _ _ _

theorem home : Statement .home := by
  rintro w ⟨⟩; exact transferWord_control _ _ _

theorem entry (p q : Bool) : Statement (.entry p q) := by
  rintro w ⟨⟩; exact transferWord_control _ _ _

theorem display (p q r : Bool) : Statement (.display p q r) := by
  rintro w ⟨⟩; exact transferWord_control _ _ _

theorem shift (p q : Bool) : Statement (.shift p q) := by
  rintro w ⟨⟩; exact transferWord_control _ _ _

theorem funcset (p q r : Bool) : Statement (.funcset p q r) := by
  rintro w ⟨⟩; exact transferWord_control _ _ _

theorem setcg (a : Int) : Statement (.setcg a) := by
  intro w h
  unfold encode at h
  split at h
  · cases h; exact transferWord_control _ _ _
  · cases h

theorem setdd (a : Int) : Statement (.setdd a) := by
  intro w h
  unfold encode at h
  split at h
  · cases h; exact transferWord_control _ _ _
  · cases h

theorem wrdata (v : Byte) : Statement (.wrdata v) := by
  rintro w ⟨⟩; exact transferWord_control _ _ _

theorem rddata : Statement .rddata := by
  rintro w ⟨⟩; exact transferWord_control _ _ _

theorem rdstat : Statement .rdstat := by
  rintro w ⟨⟩; exact transferWord_control _ _ _

theorem init : Statement .init := by
  rintro w ⟨⟩

end Sys2Proof.Laws.Direction
end

