-- ==== Sys2Proof/Laws/Step.lean ====
section
/-! SUPPORT. All that a step can do. -/

namespace Sys2Proof.Machine

/-- If a step answers a next state, it was an iteration of the poll loop, an idle step, or the next operation. -/
theorem step_next {s t : State} (h : step s = .next t) :
    (∃ v, s.inFlight = some v ∧ pollOnce v s = .next t) ∨
    (s.inFlight = none ∧ s.calls = [] ∧ t = s) ∨
    (∃ c rest i, s.inFlight = none ∧ s.calls = c :: rest ∧ callInstr c = .ok i ∧
      exec i { s with calls := rest } = .next t) := by
  unfold step at h
  split at h
  · next v hv => exact .inl ⟨v, hv, h⟩
  · next hn =>
    split at h
    · next hc => cases h; exact .inr (.inl ⟨hn, hc, rfl⟩)
    · next c rest hc =>
      split at h
      · cases h
      · next i hi => exact .inr (.inr ⟨c, rest, i, hn, hc, hi, h⟩)

theorem step_inFlight {s : State} {v : Value} (h : s.inFlight = some v) : step s = pollOnce v s := by
  simp [step, h]

theorem step_call {s : State} {c : Call} {rest : List Call} {i : Instr} (hn : s.inFlight = none)
    (hc : s.calls = c :: rest) (hi : callInstr c = .ok i) : step s = exec i { s with calls := rest } := by
  simp [step, hn, hc, hi]

/-- A run of any machine goes on from the state its step answers. -/
theorem run_of_step_next (M : Host.Core) (n : Nat) (s t : M.State) (h : M.step s = .next t) :
    M.run (n + 1) s = M.run n t := by
  simp only [Host.Core.run, h]

/-- A run of this machine goes on from the state a step answers. -/
theorem run_next {s t : State} (h : step s = .next t) (n : Nat) : core.run (n + 1) s = core.run n t :=
  run_of_step_next core n s t h

end Sys2Proof.Machine
end

