-- ==== Sys2Proof/Tests/Slice0.lean ====
section
/-! SUPPORT. The model's own tests. Expected values are the spec's: the vectors of 95_test_vectors.md (V1 to V14, P1 to
P4, S1 to S11) and the worked examples of the rules. The witnesses at the end meet each statement's hypotheses. -/

namespace Sys2Proof.Tests

open Sys2Proof.Machine

/-! ## Helpers -/

/-- The state of a next outcome meets a test. -/
def ends (o : Host.Outcome State Fault Refusal) (p : State → Bool) : Bool :=
  match o with
  | .next t => p t
  | .fault _ => false
  | .refused _ => false

/-- The refusal of a refused outcome is this one. -/
def refusedWith (o : Host.Outcome State Fault Refusal) (r : Refusal) : Bool :=
  match o with
  | .next _ => false
  | .fault _ => false
  | .refused r' => decide (r' = r)

def gpio4 : Cfg := Cfg.initial
def gpio4NoRW : Cfg := { Cfg.initial with hasRW := false }
def gpio8 : Cfg := { Cfg.initial with transport := .gpio8 }
def gpio8NoRW : Cfg := { Cfg.initial with transport := .gpio8, hasRW := false }
def gpio8Poll : Cfg := { Cfg.initial with transport := .gpio8, waitMode := .poll }
def i2c : Cfg := { Cfg.initial with transport := .i2c, hasRW := false, i2cReadable := true, i2cAddr := 0x27#7 }
def i2cWriteOnly : Cfg := { i2c with i2cReadable := false }
def i2cPoll : Cfg := { i2c with waitMode := .poll }
/-- The other map of V11. -/
def i2cSwapped : Cfg :=
  { i2c with map := { rs := 7, rw := 6, e := 5, bl := 4, db4 := 0, db5 := 1, db6 := 2, db7 := 3 } }

/-- The engine constructed with a configuration, its trace dropped, with scripted answers. -/
def built (c : Cfg) (ls : List Level := []) (bs : List Byte := []) : State :=
  { constructLines (notConstructed c) with trace := [], levels := ls, bytes := bs }

/-- The levels of lines, from a byte: bit 0 first. -/
def bitsOf (v : Byte) : List Level := (List.range 8).map fun k => v.getLsbD k

/-- `l=b` of the compact notation. -/
def s (l : Line) (b : Nat) : Event := .set l (decide (b = 1))

/-- `DBk=b` of the compact notation. -/
def d (k : Fin 8) (b : Nat) : Event := .set (.db k) (decide (b = 1))

/-- The enable pulse of a GPIO transfer: `D(1); E=1; D(1); E=0`. -/
def pulse : List Event := [.delay 1, s .e 1, .delay 1, s .e 0]

/-- `DBk?b` for a list of lines and levels. -/
def got (k : Fin 8) (b : Nat) : Event := .get (.db k) (decide (b = 1))

/-- `BW(v)` at the address of `i2c`. -/
def w (v : Byte) : Event := .bw 0x27#7 v

/-- `BR?v` at the address of `i2c`. -/
def r (v : Byte) : Event := .br 0x27#7 v

/-! ## Well-formedness: one ill-formed term for each check, which the check refuses -/

theorem test_wf_setcg : Instr.wf (.setcg 63) = true ∧ Instr.wf (.setcg 64) = false ∧ Instr.wf (.setcg (-1)) = false := by
  decide

theorem test_wf_setdd :
    Instr.wf (.setdd 127) = true ∧ Instr.wf (.setdd 128) = false ∧ Instr.wf (.setdd (-1)) = false := by
  decide

theorem test_wf_poll_needs_reading :
    gpio8Poll.wf = true ∧ i2cPoll.wf = true ∧ ({ gpio4NoRW with waitMode := .poll } : Cfg).wf = false ∧
      ({ i2cWriteOnly with waitMode := .poll } : Cfg).wf = false := by
  decide

theorem test_wf_map_injective :
    i2cSwapped.wf = true ∧ ({ i2c with map := { ExpanderMap.usual with db7 := 2 } } : Cfg).wf = false := by
  decide

/-! ## Decoding (V8, R82, R90): words written out bit by bit, `rs rw db7..db0` -/

theorem test_decode_fixed : decode 0b0000000001#10 = .ok .clear ∧ decode 0b0000000010#10 = .ok .home := by decide

theorem test_decode_entry :
    decode 0b0000000110#10 = .ok (.entry true false) ∧ decode 0b0000000101#10 = .ok (.entry false true) := by decide

theorem test_decode_display :
    decode 0b0000001100#10 = .ok (.display true false false) ∧
    decode 0b0000001011#10 = .ok (.display false true true) := by decide

theorem test_decode_shift :
    decode 0b0000010000#10 = .ok (.shift true false) ∧ decode 0b0000010100#10 = .ok (.shift true true) ∧
    decode 0b0000011000#10 = .ok (.shift false false) ∧ decode 0b0000011100#10 = .ok (.shift false true) := by decide

theorem test_decode_funcset :
    decode 0b0000101000#10 = .ok (.funcset false true false) ∧
    decode 0b0000110100#10 = .ok (.funcset true false true) := by decide

theorem test_decode_address :
    decode 0b0001111111#10 = .ok (.setcg 63) ∧ decode 0b0001001000#10 = .ok (.setcg 8) ∧
    decode 0b0011000000#10 = .ok (.setdd 64) ∧ decode 0b0011111111#10 = .ok (.setdd 127) := by decide

theorem test_decode_data :
    decode 0b1000000001#10 = .ok (.wrdata 0x01#8) ∧ decode 0b1101000001#10 = .ok .rddata ∧
    decode 0b0111000101#10 = .ok .rdstat := by decide

theorem test_decode_reserved :
    decode 0b0000000000#10 = .error (.reservedCommand 0x00#8) ∧
    decode 0b0000000011#10 = .error (.reservedCommand 0x03#8) ∧
    decode 0b0000010001#10 = .error (.reservedCommand 0x11#8) ∧
    decode 0b0000111111#10 = .error (.reservedCommand 0x3F#8) := by decide

theorem test_decode_container :
    decodeTableWord 16 0x0C0 = some (.setdd 64) ∧ decodeTableWord 16 0x400 = none ∧
    decodeTableWord 16 0x10001 = none := by decide

/-! ## The encoder (V1 to V7) -/

theorem test_encode_fixed : encode .clear = some 0x001#10 ∧ encode .home = some 0x002#10 := by decide

theorem test_encode_flags :
    encode (.entry true true) = some 0x007#10 ∧ encode (.display false false true) = some 0x009#10 ∧
    encode (.shift false true) = some 0x01C#10 ∧ encode (.funcset true false true) = some 0x034#10 := by decide

theorem test_encode_address :
    encode (.setcg 8) = some 0x048#10 ∧ encode (.setdd 0x27) = some 0x0A7#10 ∧ encode (.setdd 256) = none := by decide

theorem test_encode_nibbles :
    encodeTransfers .gpio4 (.funcset false true false) = some [⟨false, false, 0x20#8⟩, ⟨false, false, 0x80#8⟩] ∧
    encodeTransfers .gpio8 (.wrdata 0x48#8) = some [⟨true, false, 0x48#8⟩] := by decide

/-! ## The adapters (V9, V10, V11, V14) -/

theorem test_construct_gpio4 :
    ends (construct gpio4NoRW) (fun t => t.trace = [.initOut .e, s .e 0, .initOut .rs, s .rs 0, .initOut (.db 4), d 4 0,
      .initOut (.db 5), d 5 0, .initOut (.db 6), d 6 0, .initOut (.db 7), d 7 0]) = true := by decide

theorem test_construct_i2c :
    ends (construct i2c) (fun t => t.trace = [w 0x08#8]) = true ∧
    ends (construct { i2c with backlight := false }) (fun t => t.trace = [w 0x00#8]) = true := by decide

theorem test_gpio4_write_nibble :
    (gpio4WriteNibble .command 0x3#4 4100 (built gpio4)).trace =
      [s .rs 0, s .rw 0, s .e 0, d 4 1, d 5 1, d 6 0, d 7 0] ++ pulse ++ [.delay 4100] := by decide

theorem test_gpio4_write_byte_no_rw :
    (writeByte .data 0x48#8 53 (built gpio4NoRW)).trace =
      [s .rs 1, s .e 0, d 4 0, d 5 0, d 6 1, d 7 0] ++ pulse ++ [s .rs 1, s .e 0, d 4 0, d 5 0, d 6 0, d 7 1] ++ pulse ++
      [.delay 53] := by decide

theorem test_gpio4_write_after_read :
    let read := (readByteBody .command 0 (built gpio4 [false, false, true, true, true, false, true, false])).2
    (writeByte .data 0x41#8 53 { read with trace := [] }).trace =
      [s .rs 1, s .rw 0, s .e 0, .initOut (.db 4), d 4 0, .initOut (.db 5), d 5 0, .initOut (.db 6), d 6 1,
       .initOut (.db 7), d 7 0] ++ pulse ++ [s .rs 1, s .rw 0, s .e 0, d 4 1, d 5 0, d 6 0, d 7 0] ++ pulse ++
      [.delay 53] := by decide

theorem test_gpio8_write_byte :
    (writeByte .command 0x38#8 53 (built gpio8)).trace =
      [s .rs 0, s .rw 0, s .e 0, d 0 0, d 1 0, d 2 0, d 3 1, d 4 1, d 5 1, d 6 0, d 7 0] ++ pulse ++ [.delay 53] := by
  decide

theorem test_i2c_write_nibble_swapped_map :
    (i2cWriteNibble .command 0x2#4 0 (built i2cSwapped)).trace = [w 0x12#8, w 0x32#8, w 0x12#8] := by
  decide

theorem test_i2c_write_byte_backlight_off :
    (writeByte .command 0x01#8 1520 (built { i2c with backlight := false })).trace =
      [w 0x00#8, w 0x04#8, w 0x00#8, w 0x10#8, w 0x14#8, w 0x10#8, .delay 1520] := by decide

theorem test_status_decode :
    decodeStatus 0xC5#8 = ⟨true, 0x45#7⟩ ∧ decodeStatus 0x05#8 = ⟨false, 0x05#7⟩ ∧
    decodeStatus 0x80#8 = ⟨true, 0x00#7⟩ ∧ decodeStatus 0x7F#8 = ⟨false, 0x7F#7⟩ := by decide

/-! ## One operation each -/

theorem test_clear_flat_delay_in_poll :
    ends (exec .clear (built gpio8Poll)) (fun t => t.inFlight = none ∧ t.opTrace =
      [s .rs 0, s .rw 0, s .e 0, d 0 1, d 1 0, d 2 0, d 3 0, d 4 0, d 5 0, d 6 0, d 7 0] ++ pulse ++ [.delay 1520]) =
      true := by decide

theorem test_home_i2c :
    ends (exec .home (built i2c)) (fun t => t.opTrace =
      [w 0x08#8, w 0x0C#8, w 0x08#8, w 0x28#8, w 0x2C#8, w 0x28#8, .delay 1520]) = true := by decide

theorem test_entry_gpio4 :
    ends (exec (.entry true false) (built gpio4)) (fun t => t.opTrace =
      [s .rs 0, s .rw 0, s .e 0, d 4 0, d 5 0, d 6 0, d 7 0] ++ pulse ++
      [s .rs 0, s .rw 0, s .e 0, d 4 0, d 5 1, d 6 1, d 7 0] ++ pulse ++ [.delay 53]) = true := by decide

/-- V12: after the transfer the operation stays in flight. -/
theorem test_entry_poll_i2c :
    ends (exec (.entry true false) (built i2cPoll)) (fun t => t.inFlight = some .absent ∧ t.outcome = none ∧
      t.opTrace = [w 0x08#8, w 0x0C#8, w 0x08#8, w 0x68#8, w 0x6C#8, w 0x68#8]) = true := by decide

theorem test_display_gpio8 :
    ends (exec (.display true false false) (built gpio8)) (fun t => t.opTrace =
      [s .rs 0, s .rw 0, s .e 0, d 0 0, d 1 0, d 2 1, d 3 1, d 4 0, d 5 0, d 6 0, d 7 0] ++ pulse ++ [.delay 53]) =
      true := by decide

theorem test_shift_gpio8 :
    ends (exec (.shift true true) (built gpio8)) (fun t => t.opTrace =
      [s .rs 0, s .rw 0, s .e 0, d 0 0, d 1 0, d 2 1, d 3 0, d 4 1, d 5 0, d 6 0, d 7 0] ++ pulse ++ [.delay 53]) =
      true := by decide

theorem test_funcset_i2c :
    ends (exec (.funcset false true false) (built i2c)) (fun t => t.opTrace =
      [w 0x28#8, w 0x2C#8, w 0x28#8, w 0x88#8, w 0x8C#8, w 0x88#8, .delay 53]) = true := by decide

theorem test_setcg_i2c :
    ends (exec (.setcg 0) (built i2cWriteOnly)) (fun t => t.opTrace =
      [w 0x48#8, w 0x4C#8, w 0x48#8, w 0x08#8, w 0x0C#8, w 0x08#8, .delay 53]) = true := by decide

theorem test_setcg_out_of_range :
    ends (exec (.setcg 64) (built i2c)) (fun t => t.opTrace = [] ∧
      t.outcome = some (.error (.addressOutOfRange .cgram 64))) = true := by decide

theorem test_setdd_gpio8 :
    ends (exec (.setdd 0x40) (built gpio8)) (fun t => t.opTrace =
      [s .rs 0, s .rw 0, s .e 0, d 0 0, d 1 0, d 2 0, d 3 0, d 4 0, d 5 0, d 6 1, d 7 1] ++ pulse ++ [.delay 53]) =
      true := by decide

theorem test_setdd_out_of_range :
    ends (exec (.setdd 256) (built gpio8)) (fun t => t.opTrace = [] ∧ t.x = (built gpio8).x ∧
      t.outcome = some (.error (.addressOutOfRange .ddram 256)) ∧
      t.firstError = some (.addressOutOfRange .ddram 256)) = true := by decide

theorem test_wrdata_i2c :
    ends (exec (.wrdata 0x1F#8) (built i2c)) (fun t => t.x.xreg = 0xF9#8 ∧ t.opTrace =
      [w 0x19#8, w 0x1D#8, w 0x19#8, w 0xF9#8, w 0xFD#8, w 0xF9#8, .delay 53]) = true := by decide

theorem test_rddata_i2c :
    ends (exec .rddata (built i2c [] [0x4E#8, 0x1E#8])) (fun t => t.outcome = some (.ok (.byte 0x41#8)) ∧ t.opTrace =
      [w 0xFB#8, w 0xFF#8, r 0x4E#8, w 0xFB#8, .delay 4, w 0xFB#8, w 0xFF#8, r 0x1E#8, w 0xFB#8, .delay 4, .delay 53]) =
      true := by decide

theorem test_rddata_no_rw :
    ends (exec .rddata (built gpio4NoRW)) (fun t => t.opTrace = [] ∧
      t.outcome = some (.error .readOnWriteOnlyWiring)) = true := by decide

theorem test_rdstat_gpio4 :
    ends (exec .rdstat (built gpio4 [false, false, true, true, true, false, true, false])) (fun t =>
      t.outcome = some (.ok (.status ⟨true, 0x45#7⟩)) ∧ t.opTrace =
      [s .rs 0, s .rw 1, s .e 0, .initIn (.db 4), .initIn (.db 5), .initIn (.db 6), .initIn (.db 7),
       .delay 1, s .e 1, .delay 1, got 4 0, got 5 0, got 6 1, got 7 1, s .e 0,
       s .rs 0, s .rw 1, s .e 0, .delay 1, s .e 1, .delay 1, got 4 1, got 5 0, got 6 1, got 7 0, s .e 0]) =
      true := by decide

theorem test_rdstat_gpio8_samples_eight :
    ends (exec .rdstat (built gpio8 (bitsOf 0xC5#8))) (fun t => t.outcome = some (.ok (.status ⟨true, 0x45#7⟩)) ∧
      t.opTrace = [s .rs 0, s .rw 1, s .e 0, .initIn (.db 0), .initIn (.db 1), .initIn (.db 2), .initIn (.db 3),
        .initIn (.db 4), .initIn (.db 5), .initIn (.db 6), .initIn (.db 7), .delay 1, s .e 1, .delay 1,
        got 0 1, got 1 0, got 2 1, got 3 0, got 4 0, got 5 0, got 6 1, got 7 1, s .e 0]) = true := by decide

/-- P1, step 1. -/
theorem test_init_gpio4 :
    ends (exec .init (built gpio4)) (fun t => t.opTrace =
      let three := [s .rs 0, s .rw 0, s .e 0, d 4 1, d 5 1, d 6 0, d 7 0] ++ pulse
      [.delay 40000] ++ three ++ [.delay 4100] ++ three ++ [.delay 100] ++ three ++ [.delay 53] ++
      [s .rs 0, s .rw 0, s .e 0, d 4 0, d 5 1, d 6 0, d 7 0] ++ pulse ++ [.delay 53]) = true := by decide +kernel

theorem test_init_i2c :
    ends (exec .init (built i2c)) (fun t => t.opTrace =
      [.delay 40000, w 0x38#8, w 0x3C#8, w 0x38#8, .delay 4100, w 0x38#8, w 0x3C#8, w 0x38#8, .delay 100,
       w 0x38#8, w 0x3C#8, w 0x38#8, .delay 53, w 0x28#8, w 0x2C#8, w 0x28#8, .delay 53]) = true := by decide

/-! ## One step -/

/-- P3, step 1: the first iteration answers `0x85`, busy, the second `0x05`, ready. -/
theorem test_poll_iterations :
    ends (step { built gpio8Poll (bitsOf 0x85#8) with inFlight := some .absent }) (fun t =>
      t.inFlight = some .absent ∧ t.outcome = none) = true ∧
    ends (step { built gpio8Poll (bitsOf 0x05#8) with inFlight := some .absent }) (fun t =>
      t.inFlight = none ∧ t.outcome = some (.ok .absent)) = true := by decide

theorem test_step_runs_word :
    ends (step (State.reset.withFetchWord 16 0x001)) (fun t => t.outcome = some (.ok .absent) ∧ t.calls = []) = true := by
  decide

theorem test_step_refuses_reserved :
    refusedWith (step (State.reset.withFetchWord 16 0x003)) (.reservedCommandByte 0x03#8) = true ∧
    refusedWith (step (State.reset.withFetchWord 16 0x400)) (.notATransferWord 0x400#16) = true := by decide

/-! ## Witnesses: for each statement with hypotheses, states and operands that meet all of them -/

/-- ReadByteEffect, ClearAndHomeComplete, FlagOperationsComplete, WriteDataCompletes, ReadDataCompletes,
ReadStatusCompletes, StatusReadDecodes: idle and readable, on each transport, in both wait modes. -/
theorem test_witness_idle_readable :
    ∀ c ∈ [gpio4, gpio8, i2c, gpio8Poll, i2cPoll],
      (built c).inFlight = none ∧ (built c).cfg.canRead = true ∧ (built c).cfg.wf = true := by decide

/-- DecodeOfEncode: at the edges of the ranges, on both sides. -/
theorem test_witness_DecodeOfEncode :
    (∀ i ∈ [Instr.setcg 0, .setcg 63, .setdd 0, .setdd 127, .wrdata 0xFF#8, .rdstat], i.wf = true ∧ i ≠ .init) ∧
    (∀ i ∈ [Instr.setcg (-1), .setcg 64, .setdd (-1), .setdd 128], i.wf = false) := by decide

/-- EncodeOfDecode: a write, and a read whose data bits are not 0. -/
theorem test_witness_EncodeOfDecode : decode 0x0FF#10 = .ok (.setdd 127) ∧ decode 0x3FF#10 = .ok .rddata := by decide

/-- EncoderTriples: both set-address operations at the edges of their ranges (R117, R118). -/
theorem test_witness_EncoderTriples :
    encodeSetCgramAddress 0 = .ok ⟨0x40#8, .command, .instr⟩ ∧ encodeSetCgramAddress 63 = .ok ⟨0x7F#8, .command, .instr⟩ ∧
    encodeSetDdramAddress 0 = .ok ⟨0x80#8, .command, .instr⟩ ∧
    encodeSetDdramAddress 127 = .ok ⟨0xFF#8, .command, .instr⟩ := by decide

/-- AddressOperandsCheckedNotWrapped, SetAddressCompletes and SetAddressOutOfRangeRaises: each clause at its edges. -/
theorem test_witness_address_ranges :
    (∀ a ∈ [(0 : Int), 63], 0 ≤ a ∧ a ≤ 63) ∧ (∀ a ∈ [(0 : Int), 127], 0 ≤ a ∧ a ≤ 127) ∧
    (∀ a ∈ [(-1 : Int), 64], a < 0 ∨ 63 < a) ∧ (∀ a ∈ [(-1 : Int), 128], a < 0 ∨ 127 < a) ∧
    (built gpio4).inFlight = none := by decide

/-- WriteNibbleEffect and ReadNibbleEffect: the three transports, each readable. -/
theorem test_witness_nibble_effects :
    ((built gpio4).cfg.transport = .gpio4 ∧ (built gpio4).cfg.canRead = true) ∧
    ((built i2c).cfg.transport = .i2c ∧ (built i2c).cfg.canRead = true) ∧
    ((built gpio8).cfg.transport = .gpio8 ∧ (built gpio8).cfg.canRead = true) := by decide

/-- WriteMovesHighNibbleFirst, ReadJoinsHighNibbleFirst and TrailingDelayComesLast: both 4-bit paths. -/
theorem test_witness_four_bit_paths :
    ∀ c ∈ [gpio4, i2c], (built c).cfg.transport ≠ .gpio8 ∧ (built c).cfg.canRead = true ∧ (built c).cfg.wf = true := by
  decide

/-- ReadOnWriteOnlyWiringRaises: both GPIO variants, both reads. -/
theorem test_witness_ReadOnWriteOnlyWiringRaises :
    (∀ c ∈ [gpio4NoRW, gpio8NoRW], (built c).cfg.transport ≠ .i2c ∧ (built c).cfg.hasRW = false ∧
      (built c).inFlight = none) ∧ (∀ i ∈ [Instr.rddata, .rdstat], i.isRead = true) := by decide

/-- ReadOnWriteOnlyExpanderRaises. -/
theorem test_witness_ReadOnWriteOnlyExpanderRaises :
    (built i2cWriteOnly).cfg.transport = .i2c ∧ (built i2cWriteOnly).cfg.i2cReadable = false ∧
    (built i2cWriteOnly).inFlight = none ∧ Instr.isRead .rdstat = true := by decide

/-- ReadOnUnreadableAdapterRaises: both errors. -/
theorem test_witness_ReadOnUnreadableAdapterRaises :
    ∀ c ∈ [gpio4NoRW, gpio8NoRW, i2cWriteOnly],
      (built c).inFlight = none ∧ (built c).cfg.canRead = false ∧ Instr.isRead .rddata = true := by decide

/-- ReadWriteLevelByDirection: with an RW line, without one, and on the bus; primitives, INIT, a step, construction. -/
theorem test_witness_ReadWriteLevelByDirection :
    (∀ c ∈ [gpio4, gpio8], (built c).cfg.wf = true ∧ owns (built c).cfg .rw = true ∧ (built c).cfg.canRead = true ∧
      (built c).inFlight = none) ∧
    (∀ c ∈ [gpio4NoRW, gpio8NoRW], (built c).cfg.wf = true ∧ (built c).cfg.transport ≠ .i2c ∧
      (built c).cfg.hasRW = false ∧ owns (built c).cfg .rw = false) ∧
    ((built i2c).cfg.wf = true ∧ (built i2c).cfg.canRead = true ∧ (built i2c).cfg.transport ≠ .gpio8 ∧
      owns (built i2c).cfg .rw = false) ∧
    ends (step { built gpio4NoRW with calls := [.op .clear] }) (fun _ => true) = true ∧
    ends (construct gpio4NoRW) (fun t => owns t.cfg .rw = false) = true := by decide

/-- ExpanderByteFieldsReadBack: the default map and another. -/
theorem test_witness_ExpanderByteFieldsReadBack :
    i2c.map.injective = true ∧ i2cSwapped.map.injective = true := by decide

/-- ClearAndHomeFlatDelay: both operations, both wait modes; the other completion statements need an idle state. -/
theorem test_witness_ClearAndHomeFlatDelay :
    ∀ c ∈ [gpio4, gpio8Poll, i2cPoll], (built c).inFlight = none ∧
      ∀ i ∈ [Instr.clear, .home], i = .clear ∨ i = .home := by decide

/-- The three statements on INIT. -/
theorem test_witness_InitCompletes :
    ((built gpio4).inFlight = none ∧ (built gpio4).cfg.transport = .gpio4) ∧
    ((built gpio8).inFlight = none ∧ (built gpio8).cfg.transport = .gpio8) ∧
    ((built i2c).inFlight = none ∧ (built i2c).cfg.transport = .i2c) := by decide

/-- FixedWaitIsTrailingDelay. -/
theorem test_witness_FixedWaitIsTrailingDelay : (built gpio4).cfg.waitMode = .fixed := by decide

/-- An operation in its poll loop, with the scripted answers ready; and busy, then ready. -/
def polling (answers : List Byte) : State :=
  { built gpio8Poll (answers.map bitsOf).flatten with inFlight := some .absent }

/-- PollIteration. -/
theorem test_witness_PollIteration :
    (polling []).inFlight = some .absent ∧ (polling []).cfg.canRead = true := by decide

/-- PollLoopEndsAtFirstReadyAnswer: ready at once, and after one busy answer. -/
theorem test_witness_PollLoopEndsAtFirstReadyAnswer :
    answersBusy (polling [0x05#8]) 0 = false ∧
    ((∀ j < 1, answersBusy (polling [0x85#8, 0x05#8]) j = true) ∧ answersBusy (polling [0x85#8, 0x05#8]) 1 = false) := by
  decide

/-- PollLoopHangsWhileBusy: three busy answers. -/
theorem test_witness_PollLoopHangsWhileBusy :
    ∀ j < 3, answersBusy (polling [0x80#8, 0xFF#8, 0x80#8]) j = true := by decide

/-- LeastTimeOfEachOperation: a case for every row of its table. -/
theorem test_witness_LeastTimeOfEachOperation :
    ∀ c ∈ [gpio4, gpio8, i2c], (built c).inFlight = none ∧ (built c).cfg.waitMode = .fixed ∧
      ∀ i ∈ [Instr.clear, .home, .entry true true, .display true true true, .shift true true, .funcset true true true,
        .setcg 63, .setdd 127, .wrdata 0#8, .rddata, .rdstat, .init],
        i.wf = true ∧ (i.isRead = true → (built c).cfg.canRead = true) := by decide

/-- R16 on a trace with each case: `Delay(0)` deleted, `D(4); D(53)` added, the rest kept in order. -/
theorem test_canonical_trace :
    canonTrace [.delay 0, s .rs 1, .delay 0, s .e 1, .delay 4, .delay 0, .delay 53, s .e 0] =
      [s .rs 1, s .e 1, .delay 57, s .e 0] := by decide

/-- CanonicalTraceIsCanonical: an event that is no delay. -/
theorem test_witness_CanonicalTraceIsCanonical : (s .rs 1).isDelay = false := by decide

/-- MachineTracesAreTheRulesTraces: idle, readable and in `FIXED` mode, on each transport, with writes of both classes. -/
theorem test_witness_MachineTracesAreTheRulesTraces :
    ∀ c ∈ [gpio4, gpio8, i2c], (built c).inFlight = none ∧ (built c).cfg.waitMode = .fixed ∧
      (built c).cfg.canRead = true ∧
      ∀ i ∈ [Instr.clear, .setdd 127, .wrdata 0#8], i.isRead = false ∧ (encode i).isSome = true := by decide

/-- ErrorsLeaveNothingBehind, WhichOperationRaisesWhat (each of its four causes) and AfterAnErrorAsIfNotCalled. -/
theorem test_witness_errors :
    ends (exec (.setcg 64) (built gpio4)) (fun t => t.outcome = some (.error (.addressOutOfRange .cgram 64)) ∧
      ends (exec .clear t) (fun _ => true) = true) = true ∧
    ends (exec (.setdd 128) (built gpio4)) (fun t => t.outcome = some (.error (.addressOutOfRange .ddram 128))) = true ∧
    ends (exec .rdstat (built gpio8NoRW)) (fun t => t.outcome = some (.error .readOnWriteOnlyWiring)) = true ∧
    ends (exec .rddata (built i2cWriteOnly)) (fun t => t.outcome = some (.error .readOnWriteOnlyExpander)) = true := by
  decide

/-- OneOperationAtATime: an operation in flight, and a step of it. -/
theorem test_witness_OneOperationAtATime :
    (polling [0x05#8]).inFlight = some .absent ∧ ends (step (polling [0x05#8])) (fun _ => true) = true := by decide

/-- StepRunsThePresentedOperation: both forms of a call. -/
theorem test_witness_StepRunsThePresentedOperation :
    ({ built gpio4 with calls := [.op .init] } : State).calls = .op .init :: [] ∧ decode 0x001#10 = .ok .clear ∧
    ({ built gpio4 with calls := [.word 0x001#16] } : State).calls = .word ((0x001#10).setWidth 16) :: [] := by decide

/-- ReservedWordsAreRefused: reserved bytes at the edges of the lists of R90, and containers above ten bits. -/
theorem test_witness_ReservedWordsAreRefused :
    ([0x00#8, 0x03#8, 0x11#8, 0x1F#8, 0x21#8, 0x3F#8].all fun b => decide (b = 0x00#8 ∨ b = 0x03#8 ∨
      (0x10 ≤ b.toNat ∧ b.toNat < 0x40 ∧ b.extractLsb' 0 2 ≠ 0#2))) = true ∧
    ([0x400#16, 0xFFFF#16].all fun w => decide (0x400 ≤ w.toNat)) = true := by decide

/-- FetchWordIsRunNext: the width of the table, and the container. -/
theorem test_witness_FetchWordIsRunNext :
    decodeTableWord 10 0x001 = some .clear ∧ decodeTableWord 10 0x3FF = some .rddata ∧
    decodeTableWord 16 0x001 = some .clear ∧ decodeTableWord 16 0x3FF = some .rddata := by decide

/-- IdleEngineDoesNothing. -/
theorem test_witness_IdleEngineDoesNothing : (built gpio4).inFlight = none ∧ (built gpio4).calls = [] := by decide

/-- StepKeepsConfigurationAndGrowsTrace, OneBusDevice and WritesDoNotDependOnAnswers: a step, and a write, with a next state. -/
theorem test_witness_next_states :
    ends (step { built gpio4 with calls := [.op .home] }) (fun _ => true) = true ∧
    (built gpio4).cfg.waitMode = .fixed ∧ Instr.isRead .home = false ∧ ends (exec .home (built gpio4)) (fun _ => true) = true := by decide

/-- ConstructionState, ConstructionEstablishesInvariant and OneBusDevice: well-formed and not. -/
theorem test_witness_ConstructionState :
    (∀ c ∈ [gpio4, gpio4NoRW, gpio8, i2cSwapped], c.wf = true ∧ ends (construct c) (fun _ => true) = true) ∧
    ({ i2cWriteOnly with waitMode := .poll } : Cfg).wf = false := by decide

/-- The constructed I2C engine, with its trace and a call. -/
def i2cEngine (c : Call) : State := { constructLines (notConstructed i2c) with calls := [c] }

/-- EveryStepKeepsInvariant, TransfersStayPaired and StepStopsOnlyOnANonOperation: a state that meets the invariant. -/
theorem test_witness_EngineInv (c : Call) : EngineInv (i2cEngine c) where
  wf := show i2c.wf = true by decide
  enableLow := show (expanderByte i2c false false false 0#4).getLsbD 2 = false by decide
  latches := by
    refine ⟨fun l h => ?_, fun k h => ?_, fun _ => rfl⟩
    · cases l <;> cases h
    · cases h
  unowned := by
    refine ⟨fun l _ => ?_, fun k _ => ?_, fun h => absurd rfl h⟩
    · cases l <;> first | rfl | exact Vector.getElem_replicate _
    · exact Vector.getElem_replicate _
  wires := by
    refine ⟨{ Watch.start with byte := some 0x08#8 }, ?_, rfl, rfl, fun h => absurd rfl h, fun k h => ?_, fun _ => ?_⟩
    · show watch i2c .start [w 0x08#8] = some { Watch.start with byte := some 0x08#8 }
      decide
    · cases h
    · show some 0x08#8 = some (expanderByte i2c false false false 0#4)
      decide
  inFlight := fun h => by cases h
  opStart := Nat.zero_le _

/-- ... from which a step is a next state on a 4-bit path, or is refused. -/
theorem test_witness_EngineInv_steps :
    (i2cEngine (.op .clear)).cfg.transport ≠ .gpio8 ∧ ends (step (i2cEngine (.op .clear))) (fun _ => true) = true ∧
    refusedWith (step (i2cEngine (.word 0x000#16))) (.reservedCommandByte 0x00#8) = true := by decide

/-- WiresCarryTheOperation: INIT and a two-nibble byte, on every transport. -/
theorem test_witness_WiresCarryTheOperation :
    ∀ c ∈ [gpio4, gpio8, i2c], (built c).cfg.wf = true ∧ (built c).inFlight = none ∧ (built c).cfg.waitMode = .fixed ∧
      ∀ i ∈ [Instr.init, .setdd 127], i.isRead = false ∧ (encodeTransfers c.transport i).isSome = true := by decide

/-- WiresCarryTheRead. -/
theorem test_witness_WiresCarryTheRead :
    ∀ c ∈ [gpio4, gpio8, i2c], (built c).cfg.wf = true ∧ (built c).inFlight = none ∧ (built c).cfg.canRead = true ∧
      (built c).cfg.waitMode = .fixed ∧ ∀ i ∈ [Instr.rddata, .rdstat], i.isRead = true := by decide

end Sys2Proof.Tests
end

namespace Sys2Proof.Machine

/-! ## The nibble primitives of the two 4-bit paths -/

theorem writeNibble_gpio4 {s : State} (h : s.cfg.transport = .gpio4) (rs : RegisterSelect) (d : Nibble) (n : Nat) :
    writeNibble rs d n s = .next (gpio4WriteNibble rs d n s) := by
  simp [writeNibble, h]

theorem writeNibble_i2c {s : State} (h : s.cfg.transport = .i2c) (rs : RegisterSelect) (d : Nibble) (n : Nat) :
    writeNibble rs d n s = .next (i2cWriteNibble rs d n s) := by
  simp [writeNibble, h]

theorem readNibble_gpio4 {s : State} (h : s.cfg.transport = .gpio4) (hr : s.cfg.canRead = true) (rs : RegisterSelect)
    (n : Nat) : readNibble rs n s = .next (gpio4ReadNibble rs n s) := by
  simp [readNibble, h, (readError_none_iff _).mpr hr]

theorem readNibble_i2c {s : State} (h : s.cfg.transport = .i2c) (hr : s.cfg.canRead = true) (rs : RegisterSelect)
    (n : Nat) : readNibble rs n s = .next (i2cReadNibble rs n s) := by
  simp [readNibble, h, (readError_none_iff _).mpr hr]

@[simp] theorem gpio4WriteNibble_cfg (rs : RegisterSelect) (d : Nibble) (n : Nat) (s : State) :
    (gpio4WriteNibble rs d n s).cfg = s.cfg := by
  obtain ⟨tr, x, dir, h⟩ := gpioWrite_frame gpio4Lines (by decide) rs (onHighLines d) n s
  rw [gpio4WriteNibble, h]

@[simp] theorem i2cWriteNibble_cfg (rs : RegisterSelect) (d : Nibble) (n : Nat) (s : State) :
    (i2cWriteNibble rs d n s).cfg = s.cfg := by
  obtain ⟨tr, x, h⟩ := i2cWriteNibble_frame rs d n s
  rw [h]

@[simp] theorem gpio4ReadNibble_cfg (rs : RegisterSelect) (n : Nat) (s : State) :
    (gpio4ReadNibble rs n s).2.cfg = s.cfg := by
  obtain ⟨tr, x, dir, h⟩ := gpioRead_frame gpio4Lines (by decide) rs n s
  rw [gpio4ReadNibble, h]

@[simp] theorem i2cReadNibble_cfg (rs : RegisterSelect) (n : Nat) (s : State) :
    (i2cReadNibble rs n s).2.cfg = s.cfg := by
  obtain ⟨tr, x, h⟩ := i2cReadNibble_frame rs n s
  rw [h]

/-- A byte is its two nibbles, the high one first (R94 (c)). -/
theorem highNibble_append_lowNibble (v : Byte) : highNibble v ++ lowNibble v = v := by revert v; decide

/-- R143, R173: on a 4-bit path a written byte is two nibble writes. -/
theorem writeByte_eq_writeNibbles {s : State} (h : s.cfg.transport ≠ .gpio8) (rs : RegisterSelect) (v : Byte)
    (n : Nat) : ∃ u, writeNibble rs (highNibble v) 0 s = .next u ∧
      writeNibble rs (lowNibble v) n u = .next (writeByte rs v n s) := by
  cases ht : s.cfg.transport with
  | gpio4 => exact ⟨_, writeNibble_gpio4 ht .., by rw [writeNibble_gpio4 (by simpa using ht)]; simp [writeByte, ht]⟩
  | gpio8 => exact absurd ht h
  | i2c => exact ⟨_, writeNibble_i2c ht .., by rw [writeNibble_i2c (by simpa using ht)]; simp [writeByte, ht]⟩

/-- R146, R176: on a readable 4-bit path a read byte is two nibble reads, joined high nibble first. -/
theorem readByte_eq_readNibbles {s : State} (h : s.cfg.transport ≠ .gpio8) (hr : s.cfg.canRead = true)
    (rs : RegisterSelect) (n : Nat) :
    ∃ first second u t, readNibble rs 0 s = .next (first, u) ∧ readNibble rs n u = .next (second, t) ∧
      readByte rs n s = .ok (joinNibbles first second, t) := by
  rw [readByte_ok hr]
  cases ht : s.cfg.transport with
  | gpio4 =>
    let first := gpio4ReadNibble rs 0 s
    let second := gpio4ReadNibble rs n first.2
    refine ⟨first.1, second.1, first.2, second.2, readNibble_gpio4 ht hr rs 0, readNibble_gpio4 ?_ ?_ rs n, ?_⟩
    · simpa [first] using ht
    · simpa [first] using hr
    · simp [readByteBody, ht, first, second]
  | gpio8 => exact absurd ht h
  | i2c =>
    let first := i2cReadNibble rs 0 s
    let second := i2cReadNibble rs n first.2
    refine ⟨first.1, second.1, first.2, second.2, readNibble_i2c ht hr rs 0, readNibble_i2c ?_ ?_ rs n, ?_⟩
    · simpa [first] using ht
    · simpa [first] using hr
    · simp [readByteBody, ht, first, second]

/-- Settles O12: `writeByte` is its two `writeNibble` calls on both 4-bit paths. -/
theorem writeMovesHighNibbleFirst : Obligations.WriteMovesHighNibbleFirst := by
  intro s rs v n h
  obtain ⟨u, hhigh, hlow⟩ := writeByte_eq_writeNibbles h rs v n
  exact ⟨u, hhigh, hlow, highNibble_append_lowNibble v⟩

/-- Settles O13: `readByte` is its two `readNibble` calls on both readable 4-bit paths. -/
theorem readJoinsHighNibbleFirst : Obligations.ReadJoinsHighNibbleFirst :=
  fun _ rs n h hr => readByte_eq_readNibbles h hr rs n

end Sys2Proof.Machine

namespace Sys2Proof.Machine

/-- A level shifted to position `p` is bit `p` and no other. -/
theorem getLsbD_bit (b : Level) (p q : Fin 8) :
    ((BitVec.ofBool b).setWidth 8 <<< p.val : Byte).getLsbD q = (b && decide (q = p)) := by
  revert b p q; decide

/-! ## What an engine can emit (R22, R54) -/

/-- An event on a line the configuration owns, or on the bus to the one device of the I2C variant. -/
def emits (c : Cfg) : Event → Prop
  | .initOut l => owns c l = true
  | .initIn l => owns c l = true
  | .set l _ => owns c l = true
  | .get l _ => owns c l = true
  | .bw a _ => c.transport = .i2c ∧ a = c.i2cAddr
  | .br a _ => c.transport = .i2c ∧ a = c.i2cAddr
  | .delay _ => True

theorem emits_not_onLine {c : Cfg} {ev : Event} {l : Line} (h : emits c ev) (hl : owns c l = false) :
    ev.onLine l = false := by
  have hne : ∀ l', owns c l' = true → l' ≠ l := fun l' ho e => by simp [e, hl] at ho
  cases ev with
  | initOut l' => exact decide_eq_false (hne l' h)
  | initIn l' => exact decide_eq_false (hne l' h)
  | set l' b => exact decide_eq_false (hne l' h)
  | get l' b => exact decide_eq_false (hne l' h)
  | _ => rfl

theorem emits_bus {c : Cfg} {a : BusAddr} {v : Byte} {u : List Event} (h : ∀ ev ∈ u, emits c ev)
    (hb : Event.bw a v ∈ u ∨ Event.br a v ∈ u) : c.transport = .i2c ∧ a = c.i2cAddr :=
  hb.elim (h _) (h _)

theorem owns_control {c : Cfg} (h : c.transport ≠ .i2c) :
    owns c .rs = true ∧ owns c .e = true ∧ owns c .rw = c.hasRW := by
  simp [owns, h]

theorem owns_db {c : Cfg} {k : Fin 8} : owns c (.db k) = true ↔ k ∈ dataLines c := by simp [owns]

theorem dataLines_gpio4 {c : Cfg} (h : c.transport = .gpio4) : dataLines c = gpio4Lines := by
  rw [dataLines, h, gpio4Lines]

theorem dataLines_gpio8 {c : Cfg} (h : c.transport = .gpio8) : dataLines c = gpio8Lines := by
  rw [dataLines, h, gpio8Lines]

theorem emits_controlTrace {c : Cfg} (h : c.transport ≠ .i2c) (rs rw : Level) :
    ∀ ev ∈ controlTrace c rs rw, emits c ev := by
  obtain ⟨hrs, he, hrw⟩ := owns_control h
  cases hc : c.hasRW <;> simp [controlTrace, emits, hc, hrs, he, hrw]

theorem emits_driveTrace {c : Cfg} {k : Fin 8} (h : k ∈ dataLines c) (d : Dir) (b : Level) :
    ∀ ev ∈ driveTrace d k b, emits c ev := by
  cases d <;> simp [driveTrace, emits, owns_db, h]

theorem emits_releaseTrace {c : Cfg} {k : Fin 8} (h : k ∈ dataLines c) (d : Dir) :
    ∀ ev ∈ releaseTrace d k, emits c ev := by
  cases d <;> simp [releaseTrace, emits, owns_db, h]

theorem emits_gpioWriteTrace {c : Cfg} (h : c.transport ≠ .i2c) (dir : Vector Dir 8) (rs : Level) (v : Byte) :
    ∀ ev ∈ gpioWriteTrace c dir (dataLines c) rs v, emits c ev := by
  obtain ⟨-, he, -⟩ := owns_control h
  intro ev hev
  simp only [gpioWriteTrace, List.mem_append, List.mem_flatten, List.mem_map] at hev
  rcases hev with (hev | ⟨_, ⟨k, hk, rfl⟩, hev⟩) | hev
  · exact emits_controlTrace h _ _ ev hev
  · exact emits_driveTrace hk _ _ ev hev
  · simp only [List.mem_cons, List.not_mem_nil, or_false] at hev
    rcases hev with rfl | rfl | rfl | rfl <;> simp [emits, he]

theorem emits_gpioReadTrace {c : Cfg} (h : c.transport ≠ .i2c) (dir : Vector Dir 8) (rs : Level) (v : Byte) :
    ∀ ev ∈ gpioReadTrace c dir (dataLines c) rs v, emits c ev := by
  obtain ⟨-, he, -⟩ := owns_control h
  intro ev hev
  simp only [gpioReadTrace, List.mem_append, List.mem_flatten, List.mem_map] at hev
  rcases hev with (((hev | ⟨_, ⟨k, hk, rfl⟩, hev⟩) | hev) | ⟨k, hk, rfl⟩) | hev
  · exact emits_controlTrace h _ _ ev hev
  · exact emits_releaseTrace hk _ ev hev
  · simp only [List.mem_cons, List.not_mem_nil, or_false] at hev
    rcases hev with rfl | rfl | rfl <;> simp [emits, he]
  · exact owns_db.mpr hk
  · rw [List.mem_singleton.mp hev]; exact he

theorem emits_i2cWriteTrace {c : Cfg} (h : c.transport = .i2c) (rs : Level) (d : Nibble) :
    ∀ ev ∈ i2cWriteTrace c rs d, emits c ev := by
  simp [i2cWriteTrace, emits, h]

theorem emits_i2cReadTrace {c : Cfg} (h : c.transport = .i2c) (rs : Level) (v : Byte) :
    ∀ ev ∈ i2cReadTrace c rs v, emits c ev := by
  simp [i2cReadTrace, emits, h]

theorem emits_delayTrace (c : Cfg) (n : Nat) : ∀ ev ∈ delayTrace n, emits c ev := by
  unfold delayTrace
  split <;> simp [emits]

/-! ### Construction -/

@[simp] theorem constructData_cfg (ks : List (Fin 8)) (s : State) : (constructData ks s).cfg = s.cfg := by
  induction ks generalizing s with
  | nil => rfl
  | cons k ks ih => rw [constructData, ih]; rfl

/-- Step 4 of the construction trace (R281), line after line. -/
theorem constructData_trace (ks : List (Fin 8)) (s : State) :
    (constructData ks s).trace = s.trace ++ ks.flatMap fun k => [.initOut (.db k), .set (.db k) false] := by
  induction ks generalizing s with
  | nil => simp [constructData]
  | cons k ks ih => simp [constructData, ih]

/-- The construction trace of a GPIO variant (R281). -/
theorem constructGpio_trace (lines : List (Fin 8)) (s : State) :
    (constructGpio lines s).trace = s.trace ++ [.initOut .e, .set .e false, .initOut .rs, .set .rs false] ++
      (if s.cfg.hasRW then [.initOut .rw, .set .rw false] else []) ++
      lines.flatMap fun k => [.initOut (.db k), .set (.db k) false] := by
  cases hc : s.cfg.hasRW <;> simp [constructGpio, constructControl, constructData_trace, hc]

theorem emits_constructGpio {s : State} (h : s.cfg.transport ≠ .i2c) (hs : s.trace = []) :
    ∀ ev ∈ (constructGpio (dataLines s.cfg) s).trace, emits s.cfg ev := by
  obtain ⟨hrs, he, hrw⟩ := owns_control h
  intro ev hev
  simp only [constructGpio_trace, hs, List.nil_append, List.mem_append, List.mem_flatMap, List.mem_cons,
    List.not_mem_nil, or_false] at hev
  rcases hev with ((rfl | rfl | rfl | rfl) | hev) | ⟨k, hk, rfl | rfl⟩
  · exact he
  · exact he
  · exact hrs
  · exact hrs
  · cases hc : s.cfg.hasRW <;> simp [hc] at hev
    rcases hev with rfl | rfl <;> simp [emits, hrw, hc]
  · exact owns_db.mpr hk
  · exact owns_db.mpr hk

theorem emits_constructLines {s : State} (hs : s.trace = []) : ∀ ev ∈ (constructLines s).trace, emits s.cfg ev := by
  cases ht : s.cfg.transport with
  | gpio4 => simpa [constructLines, dataLines_gpio4 ht, ht] using emits_constructGpio (by simp [ht]) hs
  | gpio8 => simpa [constructLines, dataLines_gpio8 ht, ht] using emits_constructGpio (by simp [ht]) hs
  | i2c => simp [constructLines, ht, hs, emits]

/-- A construction emits only on the lines it owns, or to its own bus device (R281). -/
theorem construct_emits {c : Cfg} {t : State} (h : construct c = .next t) : ∀ ev ∈ t.trace, emits c ev := by
  unfold construct at h
  split at h
  · cases h; exact emits_constructLines (s := notConstructed c) rfl
  · cases h

/-! ## The closed form of a read's samples -/

theorem sampledBits_getLsbD_notMem {s : State} {j : Fin 8} {ks : List (Fin 8)} (h : j ∉ ks) (n : Nat) (r : Byte) :
    (sampledBits s ks n r).getLsbD j = r.getLsbD j := by
  induction ks generalizing n r with
  | nil => rfl
  | cons k ks ih =>
    obtain ⟨hk, hks⟩ := List.ne_and_not_mem_of_not_mem_cons h
    rw [sampledBits, ih hks, BitVec.getLsbD_or, getLsbD_bit, decide_eq_false hk, Bool.and_false, Bool.or_false]

/-- The samples are the bits of the byte they make, each on its line's own bit. -/
theorem sampleTrace_eq {s : State} {ks : List (Fin 8)} (h : ks.Nodup) (n : Nat) {r : Byte}
    (hr : ∀ k ∈ ks, r.getLsbD k = false) :
    sampleTrace s ks n = ks.map fun k => .get (.db k) ((sampledBits s ks n r).getLsbD k) := by
  induction ks generalizing n r with
  | nil => rfl
  | cons k ks ih =>
    obtain ⟨hk, hks⟩ := List.nodup_cons.mp h
    have hr' : ∀ j ∈ ks, (r ||| (BitVec.ofBool (s.answerLevel n)).setWidth 8 <<< k.val).getLsbD j = false := by
      intro j hj
      have hjk : j ≠ k := fun e => hk (e ▸ hj)
      rw [BitVec.getLsbD_or, hr j (List.mem_cons_of_mem k hj), getLsbD_bit, decide_eq_false hjk, Bool.and_false,
        Bool.or_false]
    rw [sampleTrace, ih hks (n + 1) hr', List.map_cons, sampledBits, sampledBits_getLsbD_notMem hk,
      BitVec.getLsbD_or, hr k List.mem_cons_self, getLsbD_bit, decide_eq_true rfl, Bool.and_true, Bool.false_or]

/-- One read transfer's trace is the rule's (R145, R163), for the byte it samples. -/
theorem gpioRead_trace {lines : List (Fin 8)} (h : lines.Nodup) (rs : RegisterSelect) (n : Nat) (s : State) :
    (gpioRead lines rs n s).2.trace =
      s.trace ++ (gpioReadTrace s.cfg s.dir lines (rsLevel rs) (gpioRead lines rs n s).1 ++ delayTrace n) := by
  rw [gpioRead_eq lines h]
  simp [gpioReadTrace, sampleTrace_eq h 0 (r := 0#8) (by simp)]

end Sys2Proof.Machine

namespace Sys2Proof.Machine

/-! ## The traces of transfers in one direction -/

/-- At least one transfer of the bound adapter, each with RW at `level`, with delays before and after: all that a write
(`level` low) or a read (`level` high) puts on the record. -/
inductive Moves (c : Cfg) : Level → List Event → Prop
  | gpioWrite (h : c.transport ≠ .i2c) (dir : Vector Dir 8) (rs : Level) (v : Byte) :
      Moves c false (gpioWriteTrace c dir (dataLines c) rs v)
  | gpioRead (h : c.transport ≠ .i2c) (dir : Vector Dir 8) (rs : Level) (v : Byte) :
      Moves c true (gpioReadTrace c dir (dataLines c) rs v)
  | i2cWrite (h : c.transport = .i2c) (rs : Level) (d : Nibble) : Moves c false (i2cWriteTrace c rs d)
  | i2cRead (h : c.transport = .i2c) (rs : Level) (v : Byte) : Moves c true (i2cReadTrace c rs v)
  | waitBefore {level : Level} {u : List Event} (n : Nat) : Moves c level u → Moves c level (delayTrace n ++ u)
  | waitAfter {level : Level} {u : List Event} (n : Nat) : Moves c level u → Moves c level (u ++ delayTrace n)
  | append {level : Level} {u w : List Event} : Moves c level u → Moves c level w → Moves c level (u ++ w)

theorem Moves.emits {c : Cfg} {level : Level} {u : List Event} (h : Moves c level u) : ∀ ev ∈ u, emits c ev := by
  induction h with
  | gpioWrite h dir rs v => exact emits_gpioWriteTrace h dir rs v
  | gpioRead h dir rs v => exact emits_gpioReadTrace h dir rs v
  | i2cWrite h rs d => exact emits_i2cWriteTrace h rs d
  | i2cRead h rs v => exact emits_i2cReadTrace h rs v
  | waitBefore n _ ih => exact fun ev hev => (List.mem_append.mp hev).elim (emits_delayTrace c n ev) (ih ev)
  | waitAfter n _ ih => exact fun ev hev => (List.mem_append.mp hev).elim (ih ev) (emits_delayTrace c n ev)
  | append _ _ ih₁ ih₂ => exact fun ev hev => (List.mem_append.mp hev).elim (ih₁ ev) (ih₂ ev)

/-! ### From one state to another -/

/-- From `s` to `t` the record grew by transfers in one direction, in the same operation. -/
def Transferred (level : Level) (s t : State) : Prop :=
  t.cfg = s.cfg ∧ t.opStart = s.opStart ∧ ∃ u, t.trace = s.trace ++ u ∧ Moves s.cfg level u

theorem Transferred.trans {level : Level} {s t r : State} (h : Transferred level s t) (h' : Transferred level t r) :
    Transferred level s r := by
  obtain ⟨hc, ho, u, hu, hm⟩ := h
  obtain ⟨hc', ho', w, hw, hm'⟩ := h'
  exact ⟨hc'.trans hc, ho'.trans ho, u ++ w, by rw [hw, hu, List.append_assoc], hm.append (hc ▸ hm')⟩

theorem Transferred.after_delay {level : Level} {s t : State} {n : Nat} (h : Transferred level (s.delay n) t) :
    Transferred level s t := by
  obtain ⟨hc, ho, u, hu, hm⟩ := h
  rw [State.delay_eq] at hc ho hu hm
  exact ⟨hc, ho, delayTrace n ++ u, by rw [hu, List.append_assoc], hm.waitBefore n⟩

theorem Transferred.delay {level : Level} {s t : State} (h : Transferred level s t) (n : Nat) :
    Transferred level s (t.delay n) := by
  obtain ⟨hc, ho, u, hu, hm⟩ := h
  rw [State.delay_eq]
  exact ⟨hc, ho, u ++ delayTrace n, by simp [hu], hm.waitAfter n⟩

/-- A transfer keeps its transport. -/
theorem Transferred.transport {level : Level} {s t : State} {tr : Transport} (h : Transferred level s t)
    (hs : s.cfg.transport = tr) : t.cfg.transport = tr := by rw [h.1, hs]

/-! ### The adapters -/

theorem gpioWrite_transferred {s : State} (h : s.cfg.transport ≠ .i2c) (hl : (dataLines s.cfg).Nodup)
    (rs : RegisterSelect) (v : Byte) (n : Nat) : Transferred false s (gpioWrite (dataLines s.cfg) rs v n s) := by
  rw [gpioWrite_eq _ hl]
  exact ⟨rfl, rfl, _, List.append_assoc .., (Moves.gpioWrite h s.dir (rsLevel rs) v).waitAfter n⟩

theorem gpioRead_transferred {s : State} (h : s.cfg.transport ≠ .i2c) (hl : (dataLines s.cfg).Nodup)
    (rs : RegisterSelect) (n : Nat) : Transferred true s (gpioRead (dataLines s.cfg) rs n s).2 := by
  obtain ⟨tr, x, dir, hf⟩ := gpioRead_frame _ hl rs n s
  exact ⟨by rw [hf], by rw [hf], _, gpioRead_trace hl rs n s, (Moves.gpioRead h s.dir (rsLevel rs) _).waitAfter n⟩

theorem dataLines_nodup (c : Cfg) : (dataLines c).Nodup := by
  unfold dataLines
  split <;> decide

theorem gpio4WriteNibble_transferred {s : State} (h : s.cfg.transport = .gpio4) (rs : RegisterSelect) (d : Nibble)
    (n : Nat) : Transferred false s (gpio4WriteNibble rs d n s) := by
  rw [gpio4WriteNibble, ← dataLines_gpio4 h]
  exact gpioWrite_transferred (by simp [h]) (dataLines_nodup _) rs _ n

theorem gpio8WriteByte_transferred {s : State} (h : s.cfg.transport = .gpio8) (rs : RegisterSelect) (v : Byte)
    (n : Nat) : Transferred false s (gpio8WriteByte rs v n s) := by
  rw [gpio8WriteByte, ← dataLines_gpio8 h]
  exact gpioWrite_transferred (by simp [h]) (dataLines_nodup _) rs v n

theorem i2cWriteNibble_transferred {s : State} (h : s.cfg.transport = .i2c) (rs : RegisterSelect) (d : Nibble)
    (n : Nat) : Transferred false s (i2cWriteNibble rs d n s) := by
  obtain ⟨tr, x, hf⟩ := i2cWriteNibble_frame rs d n s
  refine ⟨by rw [hf], by rw [hf], i2cWriteTrace s.cfg (rsLevel rs) d ++ delayTrace n, ?_,
    (Moves.i2cWrite h (rsLevel rs) d).waitAfter n⟩
  simp [i2cWriteNibble, i2cWrite, State.delay_eq, i2cWriteTrace, rwWrite]

theorem gpio4ReadNibble_transferred {s : State} (h : s.cfg.transport = .gpio4) (rs : RegisterSelect) (n : Nat) :
    Transferred true s (gpio4ReadNibble rs n s).2 := by
  rw [gpio4ReadNibble, ← dataLines_gpio4 h]
  exact gpioRead_transferred (by simp [h]) (dataLines_nodup _) rs n

theorem gpio8ReadByte_transferred {s : State} (h : s.cfg.transport = .gpio8) (rs : RegisterSelect) (n : Nat) :
    Transferred true s (gpio8ReadByte rs n s).2 := by
  rw [gpio8ReadByte, ← dataLines_gpio8 h]
  exact gpioRead_transferred (by simp [h]) (dataLines_nodup _) rs n

theorem i2cReadNibble_transferred {s : State} (h : s.cfg.transport = .i2c) (rs : RegisterSelect) (n : Nat) :
    Transferred true s (i2cReadNibble rs n s).2 := by
  obtain ⟨tr, x, hf⟩ := i2cReadNibble_frame rs n s
  refine ⟨by rw [hf], by rw [hf], i2cReadTrace s.cfg (rsLevel rs) (s.answerByte 0) ++ delayTrace n, ?_,
    (Moves.i2cRead h (rsLevel rs) _).waitAfter n⟩
  simp [i2cReadNibble, i2cWrite, State.delay_eq, i2cReadTrace, rwRead, State.answerByte, delayTrace, tI2cRead]

/-! ### The bound adapter -/

theorem writeNibble_transferred {s : State} (h : s.cfg.transport ≠ .gpio8) (rs : RegisterSelect) (d : Nibble)
    (n : Nat) : ∃ t, writeNibble rs d n s = .next t ∧ Transferred false s t := by
  cases ht : s.cfg.transport with
  | gpio4 => exact ⟨_, writeNibble_gpio4 ht rs d n, gpio4WriteNibble_transferred ht rs d n⟩
  | gpio8 => exact absurd ht h
  | i2c => exact ⟨_, writeNibble_i2c ht rs d n, i2cWriteNibble_transferred ht rs d n⟩

theorem readNibble_transferred {s : State} (h : s.cfg.transport ≠ .gpio8) (hr : s.cfg.canRead = true)
    (rs : RegisterSelect) (n : Nat) : ∃ d t, readNibble rs n s = .next (d, t) ∧ Transferred true s t := by
  cases ht : s.cfg.transport with
  | gpio4 =>
    exact ⟨(gpio4ReadNibble rs n s).1, (gpio4ReadNibble rs n s).2, readNibble_gpio4 ht hr rs n,
      gpio4ReadNibble_transferred ht rs n⟩
  | gpio8 => exact absurd ht h
  | i2c =>
    exact ⟨(i2cReadNibble rs n s).1, (i2cReadNibble rs n s).2, readNibble_i2c ht hr rs n,
      i2cReadNibble_transferred ht rs n⟩

theorem writeByte_transferred (rs : RegisterSelect) (v : Byte) (n : Nat) (s : State) :
    Transferred false s (writeByte rs v n s) := by
  by_cases h : s.cfg.transport = .gpio8
  · simpa [writeByte, h] using gpio8WriteByte_transferred h rs v n
  · obtain ⟨u, hu, hw⟩ := writeByte_eq_writeNibbles h rs v n
    obtain ⟨_, hu', hsu⟩ := writeNibble_transferred h rs (highNibble v) 0
    cases hu.symm.trans hu'
    obtain ⟨_, hw', hut⟩ := writeNibble_transferred (by rwa [hsu.1]) rs (lowNibble v) n
    cases hw.symm.trans hw'
    exact hsu.trans hut

theorem readByte_transferred {s : State} (hr : s.cfg.canRead = true) (rs : RegisterSelect) (n : Nat) :
    Transferred true s (readByteBody rs n s).2 := by
  by_cases h : s.cfg.transport = .gpio8
  · simpa [readByteBody, h] using gpio8ReadByte_transferred h rs n
  · obtain ⟨d, e, u, t, hu, ht, hb⟩ := readByte_eq_readNibbles h hr rs n
    obtain ⟨_, _, hu', hsu⟩ := readNibble_transferred h hr rs 0
    cases hu.symm.trans hu'
    obtain ⟨_, _, ht', hut⟩ := readNibble_transferred (s := u) (by rwa [hsu.1]) (by rwa [hsu.1]) rs n
    cases ht.symm.trans ht'
    rw [readByte_ok hr] at hb
    rw [Except.ok.inj hb]
    exact hsu.trans hut

/-! ### The power-up sequence -/

/-- Four writes after a delay, the shape of the sequence on every path (R241, R242, R243). -/
theorem four_writes_transferred {α : Type} {tr : Transport} {wr : RegisterSelect → α → Nat → State → State}
    (hwr : ∀ {s : State}, s.cfg.transport = tr → ∀ rs d n, Transferred false s (wr rs d n s)) {s : State}
    (h : s.cfg.transport = tr) (d₁ d₂ d₃ d₄ : α) (n₀ n₁ n₂ n₃ n₄ : Nat) :
    Transferred false s
      (wr .command d₄ n₄ (wr .command d₃ n₃ (wr .command d₂ n₂ (wr .command d₁ n₁ (s.delay n₀))))) := by
  have h₀ : (s.delay n₀).cfg.transport = tr := by simpa [State.delay_eq] using h
  have h₁ := hwr h₀ .command d₁ n₁
  have h₂ := h₁.trans (hwr (h₁.transport h₀) .command d₂ n₂)
  have h₃ := h₂.trans (hwr (h₂.transport h₀) .command d₃ n₃)
  exact (h₃.trans (hwr (h₃.transport h₀) .command d₄ n₄)).after_delay

theorem initManually_transferred (s : State) : Transferred false s (initManually s) := by
  unfold initManually
  split
  · next h => exact four_writes_transferred gpio4WriteNibble_transferred h ..
  · next h => exact four_writes_transferred gpio8WriteByte_transferred h ..
  · next h => exact four_writes_transferred i2cWriteNibble_transferred h ..

/-! ### Operations and steps -/

theorem Transferred.finish {level : Level} {s t : State} (h : Transferred level s t) (v : Value) :
    Transferred level s (t.finish v) := h

theorem Transferred.complete {level : Level} {s t : State} (h : Transferred level s t) (cls : DelayClass) (v : Value) :
    Transferred level s (complete cls v t) := by
  obtain ⟨-, hc⟩ | ⟨-, -, hc⟩ | ⟨-, -, hc⟩ | ⟨-, hc⟩ := complete_cases cls v t
  · rw [hc]; exact (h.delay 1520).finish v
  · rw [hc]; exact (h.delay t.cfg.tInstr).finish v
  · rw [hc]; exact h
  · rw [hc]; exact h.finish v

theorem issue_transferred (i : Instruction) (s : State) : Transferred false s (issue i s) :=
  (writeByte_transferred i.registerSelect i.opcode 0 s).complete _ _

theorem issueOrRaise_transferred (e : Except Fault Instruction) (s : State) :
    (issueOrRaise e s).trace = s.trace ∨ Transferred false s (issueOrRaise e s) := by
  cases e with
  | ok i => exact .inr (issue_transferred i s)
  | error f => exact .inl rfl

theorem fetch_transferred (rs : RegisterSelect) (cls : DelayClass) (ret : Byte → Value) (s : State) :
    (fetch rs cls ret s).trace = s.trace ∨ Transferred true s (fetch rs cls ret s) := by
  cases he : readError s.cfg with
  | none =>
    have hr := (readError_none_iff _).mp he
    rw [fetch_ok hr]
    exact .inr ((readByte_transferred hr rs 0).complete _ _)
  | some f => rw [fetch_error he]; exact .inl rfl

/-- An operation emits nothing, or transfers in its one direction (R52). -/
theorem opBody_transferred (i : Instr) (s : State) :
    (opBody i s).trace = s.trace ∨ Transferred i.isRead s (opBody i s) := by
  cases i with
  | setcg a => exact issueOrRaise_transferred _ s
  | setdd a => exact issueOrRaise_transferred _ s
  | rddata => exact fetch_transferred _ _ _ s
  | rdstat => exact fetch_transferred _ _ _ s
  | init => exact .inr ((initManually_transferred s).finish _)
  | _ => exact .inr (issue_transferred _ s)

/-- An iteration of the poll loop is one read (R197). -/
theorem pollOnce_transferred {v : Value} {s t : State} (h : pollOnce v s = .next t) : Transferred true s t := by
  obtain ⟨hr, -, hp⟩ | ⟨hr, -, hp⟩ | ⟨-, hp⟩ := pollOnce_cases v s
  · cases hp.symm.trans h; exact readByte_transferred hr .command 0
  · cases hp.symm.trans h; exact (readByte_transferred hr .command 0).finish v
  · cases hp.symm.trans h

/-- All that a step emits: nothing, or transfers in one direction. -/
theorem step_moves {s t : State} (h : step s = .next t) :
    ∃ u, t.trace = s.trace ++ u ∧ (u = [] ∨ ∃ level, Moves s.cfg level u) := by
  obtain ⟨v, -, hp⟩ | ⟨-, -, rfl⟩ | ⟨c, rest, i, -, -, -, he⟩ := step_next h
  · obtain ⟨-, -, u, hu, hm⟩ := pollOnce_transferred hp
    exact ⟨u, hu, .inr ⟨true, hm⟩⟩
  · exact ⟨[], by simp, .inl rfl⟩
  · obtain ⟨-, rfl⟩ := exec_next he
    obtain hsame | ⟨-, -, u, hu, hm⟩ := opBody_transferred i (State.begin { s with calls := rest })
    · exact ⟨[], by rw [hsame]; simp, .inl rfl⟩
    · exact ⟨u, hu, .inr ⟨i.isRead, hm⟩⟩

/-- A step emits only on the lines it owns, or to its own bus device. -/
theorem step_emits {s t : State} (h : step s = .next t) : ∃ u, t.trace = s.trace ++ u ∧ ∀ ev ∈ u, emits s.cfg ev := by
  obtain ⟨u, hu, rfl | ⟨level, hm⟩⟩ := step_moves h
  · exact ⟨[], hu, by simp⟩
  · exact ⟨u, hu, hm.emits⟩

/-- Settles O18: every event of a step and of a construction is on an owned line or to the one bus device. -/
theorem oneBusDevice : Obligations.OneBusDevice := by
  refine ⟨fun s t h => ?_, fun c t h a v hb => emits_bus (construct_emits h) hb⟩
  obtain ⟨u, hu, he⟩ := step_emits h
  exact ⟨u, hu, fun a v hb => emits_bus he hb⟩

end Sys2Proof.Machine

namespace Sys2Proof.Machine

/-! ## The RW bit of an expander byte -/

theorem getLsbD_expanderBit (b : Level) (p q : Fin 8) : (expanderBit b p).getLsbD q = (b && decide (q = p)) :=
  getLsbD_bit b p q

/-- With an injective map the RW bit of an expander byte is the level written to it (R25). -/
theorem expanderByte_rw {c : Cfg} (h : c.map.injective = true) (rs rw e : Level) (d : Nibble) :
    (expanderByte c rs rw e d).getLsbD c.map.rw = rw := by
  simp only [ExpanderMap.injective, ExpanderMap.positions, decide_eq_true_eq, List.nodup_cons, List.mem_cons,
    List.not_mem_nil, or_false, not_or] at h
  obtain ⟨⟨hrs, -⟩, ⟨he, hbl, h4, h5, h6, h7⟩, -⟩ := h
  simp only [expanderByte, BitVec.getLsbD_or, getLsbD_expanderBit, decide_eq_false (Ne.symm hrs), decide_eq_false he,
    decide_eq_false hbl, decide_eq_false h4, decide_eq_false h5, decide_eq_false h6, decide_eq_false h7,
    decide_true, Bool.and_false, Bool.and_true, Bool.or_false, Bool.false_or]

theorem Cfg.wf_map_injective {c : Cfg} (hwf : c.wf = true) (h : c.transport = .i2c) : c.map.injective = true := by
  simp only [Cfg.wf, h, Bool.and_eq_true] at hwf
  simpa using hwf.2

/-! ## RW held at a level -/

/-- Every level a trace gives to RW, on the line or in an expander byte, is `level`. -/
def RwAlways (c : Cfg) (level : Level) (u : List Event) : Prop :=
  (∀ b, Event.set .rw b ∈ u → b = level) ∧ (∀ a v, Event.bw a v ∈ u → v.getLsbD c.map.rw = level)

/-- RW is at `level` whenever enable is high. -/
def RwWhileEnabled (level : Level) (p : Pins) : Prop := p.e = true → p.rw = level

/-- `RwHeld` in a form that traces in one direction keep when they are joined: `held` starts from any pins at `level`
while enable is high, and so need not know how the trace before it ended. -/
structure RwKept (c : Cfg) (level : Level) (u : List Event) : Prop where
  always : RwAlways c level u
  held   : hasRWLevel c → ∀ p, RwWhileEnabled level p → ∀ now later, u = now ++ later →
    RwWhileEnabled level (now.foldl (pinsAfter c) p)

theorem RwAlways.append {c : Cfg} {level : Level} {u w : List Event} (hu : RwAlways c level u)
    (hw : RwAlways c level w) : RwAlways c level (u ++ w) :=
  ⟨fun b hb => (List.mem_append.mp hb).elim (hu.1 b) (hw.1 b),
   fun a v hv => (List.mem_append.mp hv).elim (hu.2 a v) (hw.2 a v)⟩

theorem RwAlways.mono {c : Cfg} {level : Level} {u w : List Event} (hw : RwAlways c level w) (h : u ⊆ w) :
    RwAlways c level u :=
  ⟨fun b hb => hw.1 b (h hb), fun a v hv => hw.2 a v (h hv)⟩

/-- Once RW is at `level` it stays there while only `level` is given to it. -/
theorem RwAlways.foldl_rw {c : Cfg} {level : Level} {u : List Event} (h : RwAlways c level u) {p : Pins}
    (hp : p.rw = level) : (u.foldl (pinsAfter c) p).rw = level := by
  induction u generalizing p with
  | nil => exact hp
  | cons ev u ih =>
    refine ih (h.mono (List.subset_cons_self ev u)) ?_
    cases ev with
    | set l b =>
      cases l with
      | rw => exact h.1 b List.mem_cons_self
      | _ => exact hp
    | bw a v => exact h.2 a v List.mem_cons_self
    | _ => exact hp

/-- A trace that sets no line keeps RW at `level` while enable is high: an expander byte gives both at once. -/
theorem RwAlways.foldl_whileEnabled {c : Cfg} {level : Level} {u : List Event} (h : RwAlways c level u)
    (hset : ∀ l b, Event.set l b ∉ u) {p : Pins} (hp : RwWhileEnabled level p) :
    RwWhileEnabled level (u.foldl (pinsAfter c) p) := by
  induction u generalizing p with
  | nil => exact hp
  | cons ev u ih =>
    refine ih (h.mono (List.subset_cons_self ev u)) (fun l b hb => hset l b (List.mem_cons_of_mem _ hb)) ?_
    cases ev with
    | set l b => exact absurd List.mem_cons_self (hset l b)
    | bw a v => exact fun _ => h.2 a v List.mem_cons_self
    | _ => exact hp

/-! ### The transfers -/

theorem rwKept_of_no_set {c : Cfg} {level : Level} {u : List Event} (ha : RwAlways c level u)
    (hset : ∀ l b, Event.set l b ∉ u) : RwKept c level u where
  always := ha
  held _ p hp now later h := by
    subst h
    exact (ha.mono (List.subset_append_left now later)).foldl_whileEnabled
      (fun l b hb => hset l b (List.mem_append_left later hb)) hp

theorem rwKept_delayTrace (c : Cfg) (level : Level) (n : Nat) : RwKept c level (delayTrace n) := by
  apply rwKept_of_no_set <;> unfold delayTrace <;> split <;> simp [RwAlways]

/-- A GPIO transfer gives RW its level before it raises enable. -/
theorem rwKept_of_control {c : Cfg} {level rs : Level} {rest : List Event} (h : c.transport ≠ .i2c)
    (ha : RwAlways c level (controlTrace c rs level ++ rest)) : RwKept c level (controlTrace c rs level ++ rest) where
  always := ha
  held hl p hp now later hu := by
    have hrw : c.hasRW = true := by simpa [hasRWLevel, owns, h] using hl
    simp only [controlTrace, hrw, if_true, List.cons_append, List.nil_append] at hu ha
    match now with
    | [] => exact hp
    | [ev] =>
      obtain ⟨rfl, -⟩ := List.cons.inj hu
      exact hp
    | ev :: ev' :: now =>
      simp only [List.cons_append, List.cons.injEq] at hu
      obtain ⟨rfl, rfl, hrest⟩ := hu
      intro _
      refine (ha.mono fun ev hev => ?_).foldl_rw (u := now) rfl
      rw [hrest]
      exact List.mem_cons_of_mem _ (List.mem_cons_of_mem _ (List.mem_append_left later hev))

theorem mem_controlTrace_rw {c : Cfg} {rs level b : Level} :
    Event.set .rw b ∈ controlTrace c rs level ↔ c.hasRW = true ∧ b = level := by
  cases hc : c.hasRW <;> simp [controlTrace, hc]

theorem rwKept_gpioWriteTrace {c : Cfg} (h : c.transport ≠ .i2c) (dir : Vector Dir 8) (rs : Level) (v : Byte) :
    RwKept c false (gpioWriteTrace c dir (dataLines c) rs v) := by
  have ha : RwAlways c false (gpioWriteTrace c dir (dataLines c) rs v) := by
    refine ⟨?_, fun a b hb => absurd (emits_bus (emits_gpioWriteTrace h dir rs v) (.inl hb)).1 h⟩
    simp [gpioWriteTrace, mem_controlTrace_rw, driveTrace]
  rw [gpioWriteTrace, List.append_assoc] at ha ⊢
  exact rwKept_of_control h ha

theorem rwKept_gpioReadTrace {c : Cfg} (h : c.transport ≠ .i2c) (dir : Vector Dir 8) (rs : Level) (v : Byte) :
    RwKept c true (gpioReadTrace c dir (dataLines c) rs v) := by
  have ha : RwAlways c true (gpioReadTrace c dir (dataLines c) rs v) := by
    refine ⟨?_, fun a b hb => absurd (emits_bus (emits_gpioReadTrace h dir rs v) (.inl hb)).1 h⟩
    simp [gpioReadTrace, mem_controlTrace_rw, releaseTrace]
  simp only [gpioReadTrace, List.append_assoc (controlTrace c rs true)] at ha ⊢
  exact rwKept_of_control h ha

theorem rwKept_i2cWriteTrace {c : Cfg} (h : c.map.injective = true) (rs : Level) (d : Nibble) :
    RwKept c false (i2cWriteTrace c rs d) := by
  refine rwKept_of_no_set ⟨by simp [i2cWriteTrace], fun a b hb => ?_⟩ (by simp [i2cWriteTrace])
  simp only [i2cWriteTrace, List.mem_cons, Event.bw.injEq, List.not_mem_nil, or_false] at hb
  rcases hb with ⟨-, rfl⟩ | ⟨-, rfl⟩ | ⟨-, rfl⟩ <;> exact expanderByte_rw h ..

theorem rwKept_i2cReadTrace {c : Cfg} (h : c.map.injective = true) (rs : Level) (v : Byte) :
    RwKept c true (i2cReadTrace c rs v) := by
  refine rwKept_of_no_set ⟨by simp [i2cReadTrace], fun a b hb => ?_⟩ (by simp [i2cReadTrace])
  simp only [i2cReadTrace, List.mem_cons, Event.bw.injEq, reduceCtorEq, List.not_mem_nil, or_false, false_or] at hb
  rcases hb with ⟨-, rfl⟩ | ⟨-, rfl⟩ | ⟨-, rfl⟩ <;> exact expanderByte_rw h ..

/-! ### Transfers in one direction -/

theorem RwKept.append {c : Cfg} {level : Level} {u w : List Event} (hu : RwKept c level u) (hw : RwKept c level w) :
    RwKept c level (u ++ w) where
  always := hu.always.append hw.always
  held hl p hp now later h := by
    obtain ⟨x, rfl, hx⟩ | ⟨x, hx, rfl⟩ := List.append_eq_append_iff.mp h
    · rw [List.foldl_append]
      exact hw.held hl _ (hu.held hl p hp u [] (by simp)) x later hx
    · exact hu.held hl p hp now x hx

theorem Moves.rwKept {c : Cfg} (hwf : c.wf = true) {level : Level} {u : List Event} (h : Moves c level u) :
    RwKept c level u := by
  induction h with
  | gpioWrite h dir rs v => exact rwKept_gpioWriteTrace h dir rs v
  | gpioRead h dir rs v => exact rwKept_gpioReadTrace h dir rs v
  | i2cWrite h rs d => exact rwKept_i2cWriteTrace (Cfg.wf_map_injective hwf h) rs d
  | i2cRead h rs v => exact rwKept_i2cReadTrace (Cfg.wf_map_injective hwf h) rs v
  | waitBefore n _ ih => exact (rwKept_delayTrace c _ n).append ih
  | waitAfter n _ ih => exact ih.append (rwKept_delayTrace c _ n)
  | append _ _ ih₁ ih₂ => exact ih₁.append ih₂

/-- Where an RW line is owned, every transfer sets it. -/
theorem Moves.sets_rw {c : Cfg} (ho : owns c .rw = true) {level : Level} {u : List Event} (h : Moves c level u) :
    Event.set .rw level ∈ u := by
  obtain ⟨ht, hrw⟩ : c.transport ≠ .i2c ∧ c.hasRW = true := by simpa [owns] using ho
  induction h with
  | gpioWrite => simp [gpioWriteTrace, mem_controlTrace_rw, hrw]
  | gpioRead => simp [gpioReadTrace, mem_controlTrace_rw, hrw]
  | i2cWrite h => exact absurd h ht
  | i2cRead h => exact absurd h ht
  | waitBefore n _ ih => exact List.mem_append_right _ ih
  | waitAfter n _ ih => exact List.mem_append_left _ ih
  | append _ _ ih₁ _ => exact List.mem_append_left _ ih₁

/-- R52 for all that a write or a read emits. -/
theorem Moves.rwHeld {c : Cfg} (hwf : c.wf = true) {level : Level} {u : List Event} (h : Moves c level u) :
    RwHeld c level u where
  line := (h.rwKept hwf).always.1
  owned ho := h.sets_rw ho
  notOwned hn ev hev := emits_not_onLine (h.emits ev hev) hn
  expander := (h.rwKept hwf).always.2
  held hl p hp := (h.rwKept hwf).held hl p (fun he => absurd he (by simp [hp]))

theorem Transferred.rwHeld {level : Level} {s t : State} (hwf : s.cfg.wf = true) (h : Transferred level s t) :
    ∃ u, t.trace = s.trace ++ u ∧ RwHeld s.cfg level u :=
  let ⟨_, _, u, hu, hm⟩ := h
  ⟨u, hu, hm.rwHeld hwf⟩

/-! ### The clauses of R52 -/

/-- INIT holds RW low in its own trace. -/
theorem exec_init_rwHeld {s : State} (hwf : s.cfg.wf = true) (h : s.inFlight = none) :
    ∃ t, exec .init s = .next t ∧ RwHeld s.cfg false t.opTrace := by
  obtain ⟨hc, ho, u, hu, hm⟩ := (initManually_transferred s.begin).finish .absent
  refine ⟨_, (exec_eq_present .init s).trans (present_idle h), ?_⟩
  rw [opBody, State.opTrace, hu, ho, State.begin_opStart, State.begin_trace, List.drop_left]
  exact hm.rwHeld hwf

/-- On a GPIO variant without an RW line every read primitive stops (R144, R162, R164). -/
theorem read_stops {s : State} (ht : s.cfg.transport ≠ .i2c) (hrw : s.cfg.hasRW = false) (rs : RegisterSelect)
    (n : Nat) : (∃ f, readByte rs n s = .error f) ∧ ∀ d t, readNibble rs n s ≠ .next (d, t) := by
  have he : readError s.cfg = some .readOnWriteOnlyWiring := by
    cases h : s.cfg.transport with
    | gpio4 => simp [readError, h, hrw]
    | gpio8 => simp [readError, h, hrw]
    | i2c => exact absurd h ht
  refine ⟨⟨_, readByte_error he rs n⟩, fun d t => ?_⟩
  cases h : s.cfg.transport with
  | gpio4 => simp [readNibble, h, he]
  | gpio8 => simp [readNibble, h]
  | i2c => exact absurd h ht

/-- Settles O17: writes and reads are transfers in one direction, steps and constructions emit on owned lines only. -/
theorem readWriteLevelByDirection : Obligations.ReadWriteLevelByDirection := by
  refine ⟨fun s rs n hwf => ⟨fun v => ?_, fun ht d => ?_, exec_init_rwHeld hwf, fun hr => ?_, fun hr ht => ?_,
    fun ht hrw => read_stops ht hrw rs n⟩, fun s t h ho => ?_, fun c t h ho ev hev => ?_⟩
  · exact (writeByte_transferred rs v n s).rwHeld hwf
  · obtain ⟨t, hw, htr⟩ := writeNibble_transferred ht rs d n
    obtain ⟨u, hu, hheld⟩ := htr.rwHeld hwf
    exact ⟨t, u, hw, hu, hheld⟩
  · obtain ⟨u, hu, hheld⟩ := (readByte_transferred hr rs n).rwHeld hwf
    exact ⟨_, _, u, readByte_ok hr rs n, hu, hheld⟩
  · obtain ⟨d, t, hread, htr⟩ := readNibble_transferred ht hr rs n
    obtain ⟨u, hu, hheld⟩ := htr.rwHeld hwf
    exact ⟨d, t, u, hread, hu, hheld⟩
  · obtain ⟨u, hu, he⟩ := step_emits h
    exact ⟨u, hu, fun ev hev => emits_not_onLine (he ev hev) ho⟩
  · exact emits_not_onLine (construct_emits h ev hev) ho

end Sys2Proof.Machine

namespace Sys2Proof.Machine

/-! ## The address field of an opcode (R85, R117, R118) -/

/-- The low bits that an opcode's base leaves 0 hold exactly the address written over them, where it fits. -/
theorem addressField_toNat {w : Nat} (hw : w ≤ 8) {base : Byte} (hbase : base.extractLsb' 0 w = 0#w) {addr : Int}
    (h0 : 0 ≤ addr) (hlt : addr < 2 ^ w) : (((base ||| BitVec.ofInt 8 addr).extractLsb' 0 w).toNat : Int) = addr := by
  obtain ⟨n, rfl⟩ := Int.eq_ofNat_of_zero_le h0
  have hn : n < 2 ^ w := by exact_mod_cast hlt
  rw [BitVec.extractLsb'_or, hbase, BitVec.zero_or, BitVec.ofInt_natCast, BitVec.extractLsb'_toNat, BitVec.toNat_ofNat,
    Nat.shiftRight_zero, Nat.mod_mod_of_dvd n (Nat.pow_dvd_pow 2 hw), Nat.mod_eq_of_lt hn]

theorem encodeSetCgramAddress_ok {addr : Int} (h0 : 0 ≤ addr) (h : addr ≤ 63) :
    encodeSetCgramAddress addr = .ok ⟨opSetcg addr, .command, .instr⟩ := by
  simp [encodeSetCgramAddress, (checkAddress_ok_iff .cgram addr addr).mpr ⟨rfl, h0, h⟩]

theorem encodeSetDdramAddress_ok {addr : Int} (h0 : 0 ≤ addr) (h : addr ≤ 127) :
    encodeSetDdramAddress addr = .ok ⟨opSetdd addr, .command, .instr⟩ := by
  simp [encodeSetDdramAddress, (checkAddress_ok_iff .ddram addr addr).mpr ⟨rfl, h0, h⟩]

theorem encodeSetCgramAddress_error {addr : Int} (h : addr < 0 ∨ 63 < addr) :
    encodeSetCgramAddress addr = .error (.addressOutOfRange .cgram addr) := by
  simp [encodeSetCgramAddress, (checkAddress_error_iff .cgram addr _).mpr ⟨rfl, h⟩]

theorem encodeSetDdramAddress_error {addr : Int} (h : addr < 0 ∨ 127 < addr) :
    encodeSetDdramAddress addr = .error (.addressOutOfRange .ddram addr) := by
  simp [encodeSetDdramAddress, (checkAddress_error_iff .ddram addr _).mpr ⟨rfl, h⟩]

/-- An idle engine runs the body of the operation presented. -/
theorem exec_idle {s : State} (h : s.inFlight = none) (i : Instr) : exec i s = .next (opBody i s.begin) :=
  (exec_eq_present i s).trans (present_idle h)

theorem exec_setcg_raises {s : State} (hs : s.inFlight = none) {addr : Int} (h : addr < 0 ∨ 63 < addr) :
    exec (.setcg addr) s = .next (s.begin.raise (.addressOutOfRange .cgram addr)) := by
  rw [exec_idle hs, opBody, encodeSetCgramAddress_error h, issueOrRaise]

theorem exec_setdd_raises {s : State} (hs : s.inFlight = none) {addr : Int} (h : addr < 0 ∨ 127 < addr) :
    exec (.setdd addr) s = .next (s.begin.raise (.addressOutOfRange .ddram addr)) := by
  rw [exec_idle hs, opBody, encodeSetDdramAddress_error h, issueOrRaise]

/-- Settles O7: the range check passes exactly the addresses that fit the field, and raises on the others. -/
theorem addressOperandsCheckedNotWrapped : Obligations.AddressOperandsCheckedNotWrapped := by
  refine ⟨fun addr h0 h => ?_, fun addr h0 h => ?_, fun addr h s hs => ?_, fun addr h s hs => ?_, fun _ _ => rfl⟩
  · exact ⟨_, encodeSetCgramAddress_ok h0 h, addressField_toNat (by decide) (by decide) h0 (by omega)⟩
  · exact ⟨_, encodeSetDdramAddress_ok h0 h, addressField_toNat (by decide) (by decide) h0 (by omega)⟩
  · exact ⟨_, exec_setcg_raises hs h, State.raise_outcome ..⟩
  · exact ⟨_, exec_setdd_raises hs h, State.raise_outcome ..⟩

end Sys2Proof.Machine

namespace Sys2Proof.Machine

/-! ## A read does not look at the operation's own record -/

/-- `s` with another record of the current operation: where its trace starts and its outcome. -/
def State.withRecord (start : Nat) (o : Option OpOutcome) (s : State) : State := { s with opStart := start, outcome := o }

theorem State.begin_eq_withRecord (s : State) : s.begin = s.withRecord s.trace.length none := rfl

@[simp] theorem State.withRecord_cfg (start : Nat) (o : Option OpOutcome) (s : State) :
    (s.withRecord start o).cfg = s.cfg := rfl

theorem gpioRead_withRecord {lines : List (Fin 8)} (h : lines.Nodup) (rs : RegisterSelect) (n start : Nat)
    (o : Option OpOutcome) (s : State) : gpioRead lines rs n (s.withRecord start o) =
      ((gpioRead lines rs n s).1, (gpioRead lines rs n s).2.withRecord start o) := by
  obtain ⟨hbits, htrace⟩ := sampled_congr (u := s.withRecord start o) (s := s) rfl rfl lines 0 0#8
  rw [gpioRead_eq lines h, gpioRead_eq lines h, hbits, htrace]
  rfl

theorem i2cReadNibble_withRecord (rs : RegisterSelect) (n start : Nat) (o : Option OpOutcome) (s : State) :
    i2cReadNibble rs n (s.withRecord start o) =
      ((i2cReadNibble rs n s).1, (i2cReadNibble rs n s).2.withRecord start o) := by
  simp only [i2cReadNibble, State.delay_eq]
  rfl

theorem readByteBody_withRecord (rs : RegisterSelect) (n start : Nat) (o : Option OpOutcome) (s : State) :
    readByteBody rs n (s.withRecord start o) =
      ((readByteBody rs n s).1, (readByteBody rs n s).2.withRecord start o) := by
  cases ht : s.cfg.transport with
  | gpio4 => simp [readByteBody, ht, gpio4ReadNibble, gpioRead_withRecord (lines := gpio4Lines) (by decide)]
  | gpio8 => simp [readByteBody, ht, gpio8ReadByte, gpioRead_withRecord (lines := gpio8Lines) (by decide)]
  | i2c => simp [readByteBody, ht, i2cReadNibble_withRecord]

/-- `readStatus` is one read of the status port, ended with the decode of its byte (R212, R221). -/
theorem exec_rdstat {s : State} (hs : s.inFlight = none) (hr : s.cfg.canRead = true) :
    exec .rdstat s = .next (((readByteBody .command 0 s).2.withRecord s.trace.length none).finish
      (.status (decodeStatus (readByteBody .command 0 s).1))) := by
  rw [exec_idle hs, opBody, fetch_ok (s := s.begin) hr, State.begin_eq_withRecord, readByteBody_withRecord, complete]

/-- Settles O28: the decode is R86's two fields, and `readStatus` returns it for the byte it read. -/
theorem statusReadDecodes : Obligations.StatusReadDecodes :=
  ⟨fun _ => ⟨rfl, rfl⟩, by decide, by decide, fun _ hs hr =>
    ⟨_, _, _, readByte_ok hr .command 0, exec_rdstat hs hr, rfl, State.finish_outcome ..⟩⟩

end Sys2Proof.Machine

namespace Sys2Proof.Machine

/-! ## A read of an adapter that cannot read -/

theorem readError_gpio_noRW {c : Cfg} (ht : c.transport ≠ .i2c) (hrw : c.hasRW = false) :
    readError c = some .readOnWriteOnlyWiring := by
  cases h : c.transport with
  | gpio4 => simp [readError, h, hrw]
  | gpio8 => simp [readError, h, hrw]
  | i2c => exact absurd h ht

theorem readNibble_fault {s : State} {f : Fault} (ht : s.cfg.transport ≠ .gpio8) (he : readError s.cfg = some f)
    (rs : RegisterSelect) (n : Nat) : readNibble rs n s = .fault f := by
  cases h : s.cfg.transport with
  | gpio4 => simp [readNibble, h, he]
  | gpio8 => exact absurd h ht
  | i2c => simp [readNibble, h, he]

/-- Both read operations raise the adapter's error and do nothing else (R144, R162, R174, R212). -/
theorem exec_read_raises {s : State} {f : Fault} (hs : s.inFlight = none) (he : readError s.cfg = some f) {i : Instr}
    (hi : i.isRead = true) : exec i s = .next (s.begin.raise f) := by
  rw [exec_idle hs]
  cases i with
  | rddata => rw [opBody, fetch_error (s := s.begin) he]
  | rdstat => rw [opBody, fetch_error (s := s.begin) he]
  | _ => cases hi

/-- Settles O15: without an RW line step 0 of a read finds the wiring error, before the first event. -/
theorem readOnWriteOnlyWiringRaises : Obligations.ReadOnWriteOnlyWiringRaises := by
  intro s rs n ht hrw
  have he := readError_gpio_noRW ht hrw
  refine ⟨readByte_error he rs n, fun h4 => readNibble_fault (by simp [h4]) he rs n, rfl, fun hs i hi => ?_⟩
  exact ⟨_, exec_read_raises hs he hi, State.raise_outcome .., State.raise_trace ..⟩

end Sys2Proof.Machine

namespace Sys2Proof.Machine

/-! ## A read of a write-only expander -/

theorem readError_i2c_writeOnly {c : Cfg} (ht : c.transport = .i2c) (hr : c.i2cReadable = false) :
    readError c = some .readOnWriteOnlyExpander := by
  simp [readError, ht, hr]

/-- Settles O16: on a write-only expander step 0 of a read finds the adapter's error, before the first event. -/
theorem readOnWriteOnlyExpanderRaises : Obligations.ReadOnWriteOnlyExpanderRaises := by
  intro s rs n ht hr
  have he := readError_i2c_writeOnly ht hr
  refine ⟨readByte_error he rs n, readNibble_fault (by simp [ht]) he rs n, rfl, fun hs i hi => ?_⟩
  exact ⟨_, exec_read_raises hs he hi, State.raise_outcome .., State.raise_trace ..⟩

end Sys2Proof.Machine

namespace Sys2Proof.Machine

/-! ## The trailing delay of a transfer (R193) -/

@[simp] theorem State.delay_zero (s : State) : s.delay 0 = s := if_pos rfl

theorem gpioWrite_delay (lines : List (Fin 8)) (rs : RegisterSelect) (v : Byte) (n : Nat) (s : State) :
    gpioWrite lines rs v n s = (gpioWrite lines rs v 0 s).delay n := by
  simp only [gpioWrite, State.delay_zero]

theorem gpioRead_delay (lines : List (Fin 8)) (rs : RegisterSelect) (n : Nat) (s : State) :
    gpioRead lines rs n s = ((gpioRead lines rs 0 s).1, (gpioRead lines rs 0 s).2.delay n) := by
  simp only [gpioRead, State.delay_zero]

theorem i2cWriteNibble_delay (rs : RegisterSelect) (d : Nibble) (n : Nat) (s : State) :
    i2cWriteNibble rs d n s = (i2cWriteNibble rs d 0 s).delay n := by
  simp only [i2cWriteNibble, State.delay_zero]

theorem i2cReadNibble_delay (rs : RegisterSelect) (n : Nat) (s : State) :
    i2cReadNibble rs n s = ((i2cReadNibble rs 0 s).1, (i2cReadNibble rs 0 s).2.delay n) := by
  simp only [i2cReadNibble, State.delay_zero]

/-! ## Enable after a transfer (R27) -/

theorem enableLow_gpio_iff {s : State} (h : s.cfg.transport ≠ .i2c) : EnableLow s ↔ s.x.e = false := by
  cases ht : s.cfg.transport with
  | gpio4 => rw [EnableLow, ht]
  | gpio8 => rw [EnableLow, ht]
  | i2c => exact absurd ht h

theorem enableLow_i2c_iff {s : State} (h : s.cfg.transport = .i2c) :
    EnableLow s ↔ s.x.xreg.getLsbD s.cfg.map.e = false := by
  rw [EnableLow, h]

/-- With an injective map the E bit of an expander byte is the level written to it (R25). -/
theorem expanderByte_e {c : Cfg} (h : c.map.injective = true) (rs rw e : Level) (d : Nibble) :
    (expanderByte c rs rw e d).getLsbD c.map.e = e := by
  simp only [ExpanderMap.injective, ExpanderMap.positions, decide_eq_true_eq, List.nodup_cons, List.mem_cons,
    List.not_mem_nil, or_false, not_or] at h
  obtain ⟨⟨-, hrs, -⟩, ⟨hrw, -⟩, ⟨hbl, h4, h5, h6, h7⟩, -⟩ := h
  simp only [expanderByte, BitVec.getLsbD_or, getLsbD_expanderBit, decide_eq_false (Ne.symm hrs),
    decide_eq_false (Ne.symm hrw), decide_eq_false hbl, decide_eq_false h4, decide_eq_false h5, decide_eq_false h6,
    decide_eq_false h7, decide_true, Bool.and_false, Bool.and_true, Bool.or_false, Bool.false_or]

theorem gpioWrite_enableLow {s : State} (h : s.cfg.transport ≠ .i2c) {lines : List (Fin 8)} (hl : lines.Nodup)
    (rs : RegisterSelect) (v : Byte) (n : Nat) : EnableLow (gpioWrite lines rs v n s) := by
  rw [gpioWrite_eq lines hl]
  exact (enableLow_gpio_iff (by exact h)).mpr rfl

theorem gpioRead_enableLow {s : State} (h : s.cfg.transport ≠ .i2c) {lines : List (Fin 8)} (hl : lines.Nodup)
    (rs : RegisterSelect) (n : Nat) : EnableLow (gpioRead lines rs n s).2 := by
  rw [gpioRead_eq lines hl]
  exact (enableLow_gpio_iff (by exact h)).mpr rfl

theorem i2cWriteNibble_enableLow {s : State} (h : s.cfg.transport = .i2c) (hm : s.cfg.map.injective = true)
    (rs : RegisterSelect) (d : Nibble) (n : Nat) : EnableLow (i2cWriteNibble rs d n s) := by
  rw [enableLow_i2c_iff (by simpa using h), i2cWriteNibble, State.delay_eq]
  exact expanderByte_e hm ..

theorem i2cReadNibble_enableLow {s : State} (h : s.cfg.transport = .i2c) (hm : s.cfg.map.injective = true)
    (rs : RegisterSelect) (n : Nat) : EnableLow (i2cReadNibble rs n s).2 := by
  rw [enableLow_i2c_iff (by simpa using h), i2cReadNibble, State.delay_eq, State.delay_eq]
  exact expanderByte_e hm ..

/-! ## The four primitives of the bound adapter

The GPIO transfers are stated over `dataLines s.cfg`, as the traces of `Moves` are. -/

theorem writeNibble_gpio4_dataLines {s : State} (h : s.cfg.transport = .gpio4) (rs : RegisterSelect) (d : Nibble)
    (n : Nat) : writeNibble rs d n s = .next (gpioWrite (dataLines s.cfg) rs (onHighLines d) n s) := by
  rw [writeNibble_gpio4 h, gpio4WriteNibble, dataLines_gpio4 h]

theorem readNibble_gpio4_dataLines {s : State} (h : s.cfg.transport = .gpio4) (hr : s.cfg.canRead = true)
    (rs : RegisterSelect) (n : Nat) : readNibble rs n s =
      .next (highNibble (gpioRead (dataLines s.cfg) rs n s).1, (gpioRead (dataLines s.cfg) rs n s).2) := by
  rw [readNibble_gpio4 h hr, gpio4ReadNibble, dataLines_gpio4 h]

theorem writeByte_gpio8_dataLines {s : State} (h : s.cfg.transport = .gpio8) (rs : RegisterSelect) (v : Byte)
    (n : Nat) : writeByte rs v n s = gpioWrite (dataLines s.cfg) rs v n s := by
  rw [writeByte, h, gpio8WriteByte, dataLines_gpio8 h]

theorem readByte_gpio8_dataLines {s : State} (h : s.cfg.transport = .gpio8) (hr : s.cfg.canRead = true)
    (rs : RegisterSelect) (n : Nat) : readByte rs n s = .ok (gpioRead (dataLines s.cfg) rs n s) := by
  rw [readByte_ok hr, readByteBody, h, gpio8ReadByte, dataLines_gpio8 h]

theorem writeNibble_delayLast {s : State} (hwf : s.cfg.wf = true) (h : s.cfg.transport ≠ .gpio8) (rs : RegisterSelect)
    (d : Nibble) (n : Nat) :
    ∃ t, writeNibble rs d 0 s = .next t ∧ writeNibble rs d n s = .next (t.delay n) ∧ EnableLow t := by
  cases ht : s.cfg.transport with
  | gpio4 =>
    refine ⟨_, writeNibble_gpio4_dataLines ht rs d 0, ?_,
      gpioWrite_enableLow (by simp [ht]) (dataLines_nodup _) rs _ 0⟩
    rw [writeNibble_gpio4_dataLines ht, gpioWrite_delay]
  | gpio8 => exact absurd ht h
  | i2c =>
    refine ⟨_, writeNibble_i2c ht rs d 0, ?_, i2cWriteNibble_enableLow ht (Cfg.wf_map_injective hwf ht) rs d 0⟩
    rw [writeNibble_i2c ht, i2cWriteNibble_delay]

theorem readNibble_delayLast {s : State} (hwf : s.cfg.wf = true) (h : s.cfg.transport ≠ .gpio8)
    (hr : s.cfg.canRead = true) (rs : RegisterSelect) (n : Nat) :
    ∃ d t, readNibble rs 0 s = .next (d, t) ∧ readNibble rs n s = .next (d, t.delay n) ∧ EnableLow t := by
  cases ht : s.cfg.transport with
  | gpio4 =>
    refine ⟨_, _, readNibble_gpio4_dataLines ht hr rs 0, ?_,
      gpioRead_enableLow (by simp [ht]) (dataLines_nodup _) rs 0⟩
    rw [readNibble_gpio4_dataLines ht hr, gpioRead_delay]
  | gpio8 => exact absurd ht h
  | i2c =>
    refine ⟨(i2cReadNibble rs 0 s).1, (i2cReadNibble rs 0 s).2, readNibble_i2c ht hr rs 0, ?_,
      i2cReadNibble_enableLow ht (Cfg.wf_map_injective hwf ht) rs 0⟩
    rw [readNibble_i2c ht hr, i2cReadNibble_delay]

/-- On a 4-bit path the delay of a written byte is that of its second nibble (R143, R173). -/
theorem writeByte_delayLast {s : State} (hwf : s.cfg.wf = true) (rs : RegisterSelect) (v : Byte) (n : Nat) :
    writeByte rs v n s = (writeByte rs v 0 s).delay n ∧ EnableLow (writeByte rs v 0 s) := by
  by_cases h : s.cfg.transport = .gpio8
  · rw [writeByte_gpio8_dataLines h, writeByte_gpio8_dataLines h]
    exact ⟨gpioWrite_delay .., gpioWrite_enableLow (by simp [h]) (dataLines_nodup _) rs v 0⟩
  · -- At both delays the first nibble is written with delay 0 and leads to the same state `u`.
    obtain ⟨u, hu, h0⟩ := writeByte_eq_writeNibbles h rs v 0
    obtain ⟨_, hu', hn⟩ := writeByte_eq_writeNibbles h rs v n
    cases hu.symm.trans hu'
    obtain ⟨_, hu', hsu⟩ := writeNibble_transferred h rs (highNibble v) 0
    cases hu.symm.trans hu'
    obtain ⟨t, ht0, htn, he⟩ := writeNibble_delayLast (by rwa [hsu.1]) (by rwa [hsu.1]) rs (lowNibble v) n
    cases h0.symm.trans ht0
    exact ⟨Host.Outcome.next.inj (hn.symm.trans htn), he⟩

/-- On a 4-bit path the delay of a read byte is that of its second nibble (R146, R176). -/
theorem readByte_delayLast {s : State} (hwf : s.cfg.wf = true) (hr : s.cfg.canRead = true) (rs : RegisterSelect)
    (n : Nat) : ∃ b t, readByte rs 0 s = .ok (b, t) ∧ readByte rs n s = .ok (b, t.delay n) ∧ EnableLow t := by
  by_cases h : s.cfg.transport = .gpio8
  · refine ⟨(gpioRead (dataLines s.cfg) rs 0 s).1, (gpioRead (dataLines s.cfg) rs 0 s).2,
      readByte_gpio8_dataLines h hr rs 0, ?_, gpioRead_enableLow (by simp [h]) (dataLines_nodup _) rs 0⟩
    rw [readByte_gpio8_dataLines h hr, gpioRead_delay]
  · -- At both delays the first nibble is read with delay 0 and leads to the same state `u`.
    obtain ⟨_, _, u, t, hu, h0, hb0⟩ := readByte_eq_readNibbles h hr rs 0
    obtain ⟨_, _, _, _, hu', hn, hbn⟩ := readByte_eq_readNibbles h hr rs n
    cases hu.symm.trans hu'
    obtain ⟨_, _, hu', hsu⟩ := readNibble_transferred h hr rs 0
    cases hu.symm.trans hu'
    obtain ⟨_, _, ht0, htn, he⟩ :=
      readNibble_delayLast (s := u) (by rwa [hsu.1]) (by rwa [hsu.1]) (by rwa [hsu.1]) rs n
    cases h0.symm.trans ht0
    cases hn.symm.trans htn
    exact ⟨_, t, hb0, hbn, he⟩

/-- Settles O14: each primitive at delay `n` is itself at delay 0, which leaves enable low, and then `Delay(n)`. -/
theorem trailingDelayComesLast : Obligations.TrailingDelayComesLast := fun _ rs n hwf =>
  ⟨fun v => writeByte_delayLast hwf rs v n, fun hr => readByte_delayLast hwf hr rs n,
    fun h d => writeNibble_delayLast hwf h rs d n, fun h hr => readNibble_delayLast hwf h hr rs n⟩

end Sys2Proof.Machine

namespace Sys2Proof.Machine

/-! ## A write draws no answer -/

/-- The event is an answer of the environment: a level read from a line or a byte read from the bus (R14). -/
def Event.isAnswer : Event → Bool
  | .get _ _ => true
  | .br _ _ => true
  | _ => false

theorem Event.isAnswer_eq_false_iff (ev : Event) :
    ev.isAnswer = false ↔ (∀ l b, ev ≠ .get l b) ∧ ∀ a v, ev ≠ .br a v := by
  cases ev <;> simp [Event.isAnswer]

theorem delayTrace_no_answer (n : Nat) : ∀ ev ∈ delayTrace n, ev.isAnswer = false := by
  unfold delayTrace
  split <;> simp [Event.isAnswer]

theorem controlTrace_no_answer (c : Cfg) (rs rw : Level) : ∀ ev ∈ controlTrace c rs rw, ev.isAnswer = false := by
  cases hc : c.hasRW <;> simp [controlTrace, Event.isAnswer, hc]

theorem driveTrace_no_answer (d : Dir) (k : Fin 8) (b : Level) : ∀ ev ∈ driveTrace d k b, ev.isAnswer = false := by
  cases d <;> simp [driveTrace, Event.isAnswer]

theorem gpioWriteTrace_no_answer (c : Cfg) (dir : Vector Dir 8) (lines : List (Fin 8)) (rs : Level) (v : Byte) :
    ∀ ev ∈ gpioWriteTrace c dir lines rs v, ev.isAnswer = false := by
  intro ev hev
  simp only [gpioWriteTrace, List.mem_append, List.mem_flatten, List.mem_map] at hev
  rcases hev with (hev | ⟨_, ⟨k, -, rfl⟩, hev⟩) | hev
  · exact controlTrace_no_answer _ _ _ ev hev
  · exact driveTrace_no_answer _ _ _ ev hev
  · revert ev; decide

/-- Transfers with RW low read nothing. -/
theorem Moves.no_answer {c : Cfg} {level : Level} {u : List Event} (h : Moves c level u) (hl : level = false) :
    ∀ ev ∈ u, ev.isAnswer = false := by
  induction h with
  | gpioWrite _ dir rs v => exact gpioWriteTrace_no_answer c dir _ rs v
  | gpioRead => cases hl
  | i2cWrite _ rs d => simp [i2cWriteTrace, Event.isAnswer]
  | i2cRead => cases hl
  | waitBefore n _ ih => exact fun ev hev => (List.mem_append.mp hev).elim (delayTrace_no_answer n ev) (ih hl ev)
  | waitAfter n _ ih => exact fun ev hev => (List.mem_append.mp hev).elim (ih hl ev) (delayTrace_no_answer n ev)
  | append _ _ ih₁ ih₂ => exact fun ev hev => (List.mem_append.mp hev).elim (ih₁ hl ev) (ih₂ hl ev)

theorem writeByte_no_answer (rs : RegisterSelect) (v : Byte) (n : Nat) (s : State) :
    ∃ u, (writeByte rs v n s).trace = s.trace ++ u ∧ ∀ ev ∈ u, ev.isAnswer = false := by
  obtain ⟨-, -, u, hu, hm⟩ := writeByte_transferred rs v n s
  exact ⟨u, hu, hm.no_answer rfl⟩

theorem writeByte_draws (rs : RegisterSelect) (v : Byte) (n : Nat) (s : State) :
    (writeByte rs v n s).draws = s.draws := by
  obtain ⟨tr, x, dir, h⟩ := writeByte_frame rs v n s
  rw [h]

/-! ## The flat delay (R195) -/

/-- An instruction of the `T_CLEAR_HOME` class is its byte, then the fixed delay, whatever the wait mode. -/
theorem issue_clearHome {i : Instruction} (h : i.delayClass = .clearHome) (s : State) :
    issue i s = ((writeByte i.registerSelect i.opcode 0 s).delay 1520).finish .absent := by
  rw [issue, h]
  rfl

/-- Clear and home both are an instruction of the `T_CLEAR_HOME` class (R111, R112). -/
theorem opBody_clearHome {i : Instr} (h : i = .clear ∨ i = .home) :
    ∃ e : Instruction, e.delayClass = .clearHome ∧ opBody i = issue e := by
  rcases h with rfl | rfl
  · exact ⟨encodeClear, rfl, rfl⟩
  · exact ⟨encodeHome, rfl, rfl⟩

/-- Settles O20: the operation is one written byte, which draws no answer, and then `Delay(1520)`. -/
theorem clearAndHomeFlatDelay : Obligations.ClearAndHomeFlatDelay := by
  intro s i hs hi
  obtain ⟨e, he, hbody⟩ := opBody_clearHome hi
  obtain ⟨u, hu, hno⟩ := writeByte_no_answer e.registerSelect e.opcode 0 s.begin
  refine ⟨_, u, exec_idle hs i, ?_⟩
  rw [hbody, issue_clearHome he, State.delay_eq]
  exact ⟨rfl, rfl, congrArg (· ++ delayTrace 1520) hu,
    fun ev hev => (Event.isAnswer_eq_false_iff ev).mp (hno ev hev), writeByte_draws ..⟩

end Sys2Proof.Machine

namespace Sys2Proof.Machine

/-! ## A transfer word and its three fields (R81) -/

@[simp] theorem transferWord_byte (rs rw : Level) (b : Byte) : TransferWord.byte (transferWord rs rw b) = b :=
  BitVec.extractLsb'_append_eq_right

theorem ofBool_getLsbD {w : Nat} (x : BitVec w) (i : Nat) : BitVec.ofBool (x.getLsbD i) = x.extractLsb' i 1 := by
  apply BitVec.eq_of_getLsbD_eq
  intro j hj
  obtain rfl : j = 0 := by omega
  simp

/-- A word is its RS, its RW and its byte, in this order. -/
theorem transferWord_fields (w : TransferWord) :
    transferWord (w.getLsbD 9) (w.getLsbD 8) (TransferWord.byte w) = w := by
  have hcontrol : BitVec.ofBool (w.getLsbD 9) ++ BitVec.ofBool (w.getLsbD 8) = w.extractLsb' 8 2 := by
    rw [ofBool_getLsbD, ofBool_getLsbD]
    exact BitVec.extractLsb'_append_extractLsb'_eq_extractLsb' rfl
  rw [transferWord, hcontrol]
  exact (BitVec.extractLsb'_append_extractLsb'_eq_extractLsb' rfl).trans BitVec.extractLsb'_eq_self

theorem transferWord_inj {rs rw rs' rw' : Level} {b b' : Byte} :
    transferWord rs rw b = transferWord rs' rw' b' ↔ rs = rs' ∧ rw = rw' ∧ b = b' := by
  constructor
  · intro h
    obtain ⟨h9, h8⟩ := Laws.Direction.transferWord_control rs rw b
    obtain ⟨h9', h8'⟩ := Laws.Direction.transferWord_control rs' rw' b'
    exact ⟨by rw [← h9, h, h9'], by rw [← h8, h, h8'], by rw [← transferWord_byte rs rw b, h, transferWord_byte]⟩
  · rintro ⟨rfl, rfl, rfl⟩; rfl

theorem transferWord_and (rs rw rs' rw' : Level) (b b' : Byte) :
    transferWord rs rw b &&& transferWord rs' rw' b' = transferWord (rs && rs') (rw && rw') (b &&& b') := by
  refine (BitVec.and_append ..).trans ?_
  rw [BitVec.and_append, BitVec.ofBool_and_ofBool, BitVec.ofBool_and_ofBool, transferWord]

theorem transferWord_control_bits (rs rw : Level) (b : Byte) :
    (transferWord rs rw b).extractLsb' 8 2 = BitVec.ofBool rs ++ BitVec.ofBool rw :=
  BitVec.extractLsb'_append_eq_left

/-- What a word decodes to, by its fields (R82). -/
theorem decode_transferWord (rs rw : Level) (b : Byte) :
    decode (transferWord rs rw b) = match rs, rw with
      | false, false => decodeCommand b
      | true, false => .ok (.wrdata b)
      | false, true => .ok .rdstat
      | true, true => .ok .rddata := by
  obtain ⟨h9, h8⟩ := Laws.Direction.transferWord_control rs rw b
  rw [decode, h9, h8, transferWord_byte]
  cases rs <;> cases rw <;> rfl

/-! ## The opcodes decode to their operations -/

theorem decodeCommand_opEntry : ∀ p q, decodeCommand (opEntry p q) = .ok (.entry p q) := by decide

theorem decodeCommand_opDisplay : ∀ p q r, decodeCommand (opDisplay p q r) = .ok (.display p q r) := by decide

theorem decodeCommand_opShift : ∀ p q, decodeCommand (opShift p q) = .ok (.shift p q) := by decide

theorem decodeCommand_opFuncset : ∀ p q r, decodeCommand (opFuncset p q r) = .ok (.funcset p q r) := by decide

/-- A CGRAM address leaves its opcode's base 64 as it is. -/
theorem opSetcg_natCast {n : Nat} (h : n ≤ 63) : opSetcg n = BitVec.ofNat 8 (64 + n) := by
  have hor : 64 + n = 64 ||| n := Nat.two_pow_add_eq_or_of_lt (i := 6) (by omega) 1
  rw [opSetcg, BitVec.ofInt_natCast, hor, BitVec.ofNat_or]

/-- A DDRAM address leaves its opcode's base 128 as it is. -/
theorem opSetdd_natCast {n : Nat} (h : n ≤ 127) : opSetdd n = BitVec.ofNat 8 (128 + n) := by
  have hor : 128 + n = 128 ||| n := Nat.two_pow_add_eq_or_of_lt (i := 7) (by omega) 1
  rw [opSetdd, BitVec.ofInt_natCast, hor, BitVec.ofNat_or]

theorem decodeCommand_opSetcg {a : Int} (h0 : 0 ≤ a) (h : a ≤ 63) : decodeCommand (opSetcg a) = .ok (.setcg a) := by
  have h7 : (opSetcg a).getLsbD 7 = false := by
    obtain ⟨n, rfl⟩ := Int.eq_ofNat_of_zero_le h0
    rw [opSetcg_natCast (by omega), BitVec.getLsbD_ofNat, Nat.testBit_lt_two_pow (by omega), Bool.and_false]
  have h6 : (opSetcg a).getLsbD 6 = true := by simp [opSetcg]
  have hfield : (((opSetcg a).extractLsb' 0 6).toNat : Int) = a :=
    addressField_toNat (by decide) (by decide) h0 (by omega)
  simp only [decodeCommand, h7, h6, hfield, Bool.false_eq_true, if_false, if_true]

theorem decodeCommand_opSetdd {a : Int} (h0 : 0 ≤ a) (h : a ≤ 127) : decodeCommand (opSetdd a) = .ok (.setdd a) := by
  have h7 : (opSetdd a).getLsbD 7 = true := by simp [opSetdd]
  have hfield : (((opSetdd a).extractLsb' 0 7).toNat : Int) = a :=
    addressField_toNat (by decide) (by decide) h0 (by omega)
  rw [decodeCommand, if_pos h7, hfield]

theorem wf_setcg_iff (a : Int) : Instr.wf (.setcg a) = true ↔ 0 ≤ a ∧ a ≤ 63 := by simp [Instr.wf]

theorem wf_setdd_iff (a : Int) : Instr.wf (.setdd a) = true ↔ 0 ≤ a ∧ a ≤ 127 := by simp [Instr.wf]

/-- Settles O2: each operation's word has the control bits that select its decoder, and its opcode decodes to it. -/
theorem decodeOfEncode : Obligations.DecodeOfEncode := by
  refine fun i => ⟨fun hwf hinit => ?_, fun hwf => by simp [encode, hwf]⟩
  cases i with
  | clear => exact ⟨_, rfl, decode_transferWord ..⟩
  | home => exact ⟨_, rfl, decode_transferWord ..⟩
  | entry p q => exact ⟨_, rfl, (decode_transferWord ..).trans (decodeCommand_opEntry p q)⟩
  | display p q r => exact ⟨_, rfl, (decode_transferWord ..).trans (decodeCommand_opDisplay p q r)⟩
  | shift p q => exact ⟨_, rfl, (decode_transferWord ..).trans (decodeCommand_opShift p q)⟩
  | funcset p q r => exact ⟨_, rfl, (decode_transferWord ..).trans (decodeCommand_opFuncset p q r)⟩
  | setcg a =>
    obtain ⟨h0, h⟩ := (wf_setcg_iff a).mp hwf
    exact ⟨_, if_pos hwf, (decode_transferWord ..).trans (decodeCommand_opSetcg h0 h)⟩
  | setdd a =>
    obtain ⟨h0, h⟩ := (wf_setdd_iff a).mp hwf
    exact ⟨_, if_pos hwf, (decode_transferWord ..).trans (decodeCommand_opSetdd h0 h)⟩
  | wrdata v => exact ⟨_, rfl, decode_transferWord ..⟩
  | rddata => exact ⟨_, rfl, decode_transferWord ..⟩
  | rdstat => exact ⟨_, rfl, decode_transferWord ..⟩
  | init => exact absurd rfl hinit

end Sys2Proof.Machine

namespace Sys2Proof.Machine

/-! ## The command bytes

The 256 of them are checked one by one: what each decodes to, and the row of the opcode table it is in. -/

/-- What must hold of the operation a byte decodes to, or of a byte that decodes to none. -/
def decodedMeets (ok : Instr → Bool) (rejected : Bool) : Except DecodeError Instr → Bool
  | .ok i => ok i
  | .error _ => rejected

theorem commandBytes_encode_back : ∀ b : Byte, decodedMeets
    (fun i => i.wf && !i.isRead && decide (encode i = some (transferWord false false b))) true (decodeCommand b) = true := by
  decide +kernel

theorem encode_of_decodeCommand {b : Byte} {i : Instr} (h : decodeCommand b = .ok i) :
    i.wf = true ∧ i.isRead = false ∧ encode i = some (transferWord false false b) := by
  simpa [decodedMeets, h, and_assoc] using commandBytes_encode_back b

/-- Settles O3: a word is its control bits and its byte; a data byte or a command byte is written back as it was. -/
theorem encodeOfDecode : Obligations.EncodeOfDecode := by
  intro w i h
  obtain ⟨rs, rw, b, rfl⟩ : ∃ rs rw b, w = transferWord rs rw b := ⟨_, _, _, (transferWord_fields w).symm⟩
  rw [decode_transferWord] at h
  cases rs <;> cases rw
  case false.false =>
    obtain ⟨hwf, -, henc⟩ := encode_of_decodeCommand h
    exact ⟨hwf, _, henc, rfl, fun _ => rfl⟩
  case true.false =>
    cases h
    exact ⟨rfl, _, rfl, rfl, fun _ => rfl⟩
  case false.true =>
    cases h
    exact ⟨rfl, _, rfl, by simp only [transferWord_control_bits], fun h => by cases h⟩
  case true.true =>
    cases h
    exact ⟨rfl, _, rfl, by simp only [transferWord_control_bits], fun h => by cases h⟩

/-- Settles O1: the twelve words are decoded. -/
theorem writtenWordsDecode : Obligations.WrittenWordsDecode := by
  unfold Obligations.WrittenWordsDecode
  decide

/-- Settles O4: the bytes that decode to nothing are listed, and the others are the rest of the 256. -/
theorem commandByteImage : Obligations.CommandByteImage := by
  have hreserved : ((List.range 256).filter fun n => !(decodeCommand (BitVec.ofNat 8 n)).toBool) =
      [0x00, 0x03, 0x11, 0x12, 0x13, 0x15, 0x16, 0x17, 0x19, 0x1A, 0x1B, 0x1D, 0x1E, 0x1F,
       0x21, 0x22, 0x23, 0x25, 0x26, 0x27, 0x29, 0x2A, 0x2B, 0x2D, 0x2E, 0x2F,
       0x31, 0x32, 0x33, 0x35, 0x36, 0x37, 0x39, 0x3A, 0x3B, 0x3D, 0x3E, 0x3F] := by decide +kernel
  have hall := List.length_eq_length_filter_add (l := List.range 256)
    fun n => (decodeCommand (BitVec.ofNat 8 n)).toBool
  rw [hreserved, List.length_range] at hall
  exact ⟨Nat.add_right_cancel hall.symm, hreserved⟩

/-! ## The rows of the opcode table -/

/-- A row whose mask takes the two control bits holds of a word by its RS, its RW and the masked byte. -/
theorem row_holds_iff (name : String) (mask b pattern : Byte) (rs rw rs' rw' : Level) :
    OpcodeRow.holds ⟨name, transferWord true true mask, transferWord rs' rw' pattern⟩ (transferWord rs rw b) =
      (decide (rs = rs') && decide (rw = rw') && decide (b &&& mask = pattern)) := by
  simp [OpcodeRow.holds, transferWord_and, transferWord_inj, Bool.and_assoc]

/-- The eleven rows, each mask and pattern taken apart into control bits and byte. -/
theorem opcodeRows_eq : opcodeRows =
    [⟨"CLEAR", transferWord true true 0xFF#8, transferWord false false 0x01#8⟩,
     ⟨"HOME", transferWord true true 0xFF#8, transferWord false false 0x02#8⟩,
     ⟨"ENTRY", transferWord true true 0xFC#8, transferWord false false 0x04#8⟩,
     ⟨"DISPLAY", transferWord true true 0xF8#8, transferWord false false 0x08#8⟩,
     ⟨"SHIFT", transferWord true true 0xF3#8, transferWord false false 0x10#8⟩,
     ⟨"FUNCSET", transferWord true true 0xE3#8, transferWord false false 0x20#8⟩,
     ⟨"SETCG", transferWord true true 0xC0#8, transferWord false false 0x40#8⟩,
     ⟨"SETDD", transferWord true true 0x80#8, transferWord false false 0x80#8⟩,
     ⟨"WRDATA", transferWord true true 0x00#8, transferWord true false 0x00#8⟩,
     ⟨"RDSTAT", transferWord true true 0x00#8, transferWord false true 0x00#8⟩,
     ⟨"RDDATA", transferWord true true 0x00#8, transferWord true true 0x00#8⟩] := rfl

theorem commandBytes_row : ∀ b : Byte, decodedMeets
    (fun i => decide ((opcodeRows.filter fun r => r.holds (transferWord false false b)).map (·.mnemonic) = [i.mnemonic]))
    (decide ((opcodeRows.filter fun r => r.holds (transferWord false false b)) = [])) (decodeCommand b) = true := by
  decide +kernel

/-- Settles O5: a command byte is in its operation's row alone; the other words are in a row by their control bits. -/
theorem decoderFollowsOpcodeTable : Obligations.DecoderFollowsOpcodeTable := by
  intro w
  obtain ⟨rs, rw, b, rfl⟩ : ∃ rs rw b, w = transferWord rs rw b := ⟨_, _, _, (transferWord_fields w).symm⟩
  rw [decode_transferWord]
  cases rs <;> cases rw
  case false.false =>
    have hb := commandBytes_row b
    cases hd : decodeCommand b with
    | ok i => simpa [decodedMeets, hd] using hb
    | error e => simpa [decodedMeets, hd] using hb
  all_goals simp [opcodeRows_eq, row_holds_iff, Instr.mnemonic]

/-! ## The encoder's triples -/

/-- Settles O6: the flags are spelled out bit by bit, and an address in range is added to its base. -/
theorem encoderTriples : Obligations.EncoderTriples := by
  intro c p q r v a
  refine ⟨rfl, rfl, ?_, ?_, ?_, ?_, fun h => ?_, fun h => ?_, rfl⟩
  · cases p <;> cases q <;> rfl
  · cases p <;> cases q <;> cases r <;> rfl
  · cases p <;> cases q <;> rfl
  · cases p <;> cases q <;> cases r <;> rfl
  · exact ⟨_, encodeSetCgramAddress_ok (by omega) (by omega), by rw [opSetcg_natCast h]; rfl⟩
  · exact ⟨_, encodeSetDdramAddress_ok (by omega) (by omega), by rw [opSetdd_natCast h]; rfl⟩

/-! ## Words that are no operation (R81, R90) -/

theorem decodeContainer_byte (b : Byte) : decodeContainer (b.setWidth 16) = decodeCommand b := by
  have hhigh : (b.setWidth 16).extractLsb' 10 6 = 0#6 := by revert b; decide
  have hlow : (b.setWidth 16).extractLsb' 0 10 = transferWord false false b := by revert b; decide
  rw [decodeContainer, if_pos hhigh, hlow, decode_transferWord]

theorem decodeCommand_reserved : ∀ b : Byte,
    b = 0x00#8 ∨ b = 0x03#8 ∨ (0x10 ≤ b.toNat ∧ b.toNat < 0x40 ∧ b.extractLsb' 0 2 ≠ 0#2) →
    decodeCommand b = .error (.reservedCommand b) := by
  decide +kernel

/-- A container above ten bits has a bit set among its high six. -/
theorem decodeContainer_notTenBits {w : BitVec 16} (h : 0x400 ≤ w.toNat) : decodeContainer w = .error (.notTenBits w) := by
  refine if_neg fun hz => ?_
  have hdiv : w.toNat / 1024 % 64 = 0 := by
    simpa [BitVec.extractLsb'_toNat, Nat.shiftRight_eq_div_pow] using congrArg BitVec.toNat hz
  have := w.isLt
  omega

theorem step_refused {s : State} {c : Call} {rest : List Call} {r : Refusal} (hn : s.inFlight = none)
    (hc : s.calls = c :: rest) (hr : callInstr c = .error r) : step s = .refused r := by
  simp [step, hn, hc, hr]

/-- Settles O44: the decoder names the reserved byte, or the container, and the step refuses it. -/
theorem reservedWordsAreRefused : Obligations.ReservedWordsAreRefused := by
  intro s rest w hn hc
  refine ⟨fun b hb hw => step_refused hn hc ?_, fun hw => step_refused hn hc ?_⟩
  · rw [callInstr, hw, decodeContainer_byte, decodeCommand_reserved b hb]
  · rw [callInstr, decodeContainer_notTenBits hw]

end Sys2Proof.Machine

namespace Sys2Proof.Machine

/-! ## The expander byte as a list of fields (R25) -/

/-- The fields of an expander byte, each level with its position. -/
def expanderFields (c : Cfg) (rs rw e : Level) (d : Nibble) : List (Level × Fin 8) :=
  [(rs, c.map.rs), (rw, c.map.rw), (e, c.map.e), (c.backlight, c.map.bl), (d.getLsbD 0, c.map.db4),
   (d.getLsbD 1, c.map.db5), (d.getLsbD 2, c.map.db6), (d.getLsbD 3, c.map.db7)]

/-- The byte with each level at its position. -/
def fieldsByte (fs : List (Level × Fin 8)) : Byte := fs.foldr (fun f v => expanderBit f.1 f.2 ||| v) 0#8

theorem expanderByte_eq_fieldsByte (c : Cfg) (rs rw e : Level) (d : Nibble) :
    expanderByte c rs rw e d = fieldsByte (expanderFields c rs rw e d) := by
  simp [expanderByte, fieldsByte, expanderFields, BitVec.or_assoc]

theorem fieldsByte_getLsbD_notMem {fs : List (Level × Fin 8)} {p : Fin 8} (h : p ∉ fs.map Prod.snd) :
    (fieldsByte fs).getLsbD p = false := by
  induction fs with
  | nil => simp [fieldsByte]
  | cons f fs ih =>
    obtain ⟨hf, hfs⟩ := List.ne_and_not_mem_of_not_mem_cons h
    rw [fieldsByte, List.foldr_cons, BitVec.getLsbD_or, getLsbD_expanderBit, decide_eq_false hf, Bool.and_false,
      Bool.false_or]
    exact ih hfs

/-- Where no two fields share a position, each reads back. -/
theorem fieldsByte_getLsbD {fs : List (Level × Fin 8)} (h : (fs.map Prod.snd).Nodup) {b : Level} {p : Fin 8}
    (hm : (b, p) ∈ fs) : (fieldsByte fs).getLsbD p = b := by
  induction fs with
  | nil => cases hm
  | cons f fs ih =>
    obtain ⟨hf, hfs⟩ := List.nodup_cons.mp h
    rw [fieldsByte, List.foldr_cons, BitVec.getLsbD_or, getLsbD_expanderBit]
    rcases List.mem_cons.mp hm with rfl | hm
    · rw [decide_eq_true rfl, Bool.and_true]
      exact (congrArg (b || ·) (fieldsByte_getLsbD_notMem hf)).trans (Bool.or_false b)
    · have hne : p ≠ f.2 := fun e => hf (e ▸ List.mem_map_of_mem (f := Prod.snd) hm)
      rw [decide_eq_false hne, Bool.and_false, Bool.false_or]
      exact ih hfs hm

/-- With an injective map each field of an expander byte reads back (R25, R179). -/
theorem expanderByte_field {c : Cfg} (h : c.map.injective = true) {rs rw e : Level} {d : Nibble} {b : Level}
    {p : Fin 8} (hm : (b, p) ∈ expanderFields c rs rw e d) : (expanderByte c rs rw e d).getLsbD p = b := by
  have hpositions : ((expanderFields c rs rw e d).map Prod.snd).Nodup := of_decide_eq_true (p := c.map.positions.Nodup) h
  rw [expanderByte_eq_fieldsByte]
  exact fieldsByte_getLsbD hpositions hm

theorem expanderByte_rs {c : Cfg} (h : c.map.injective = true) (rs rw e : Level) (d : Nibble) :
    (expanderByte c rs rw e d).getLsbD c.map.rs = rs :=
  expanderByte_field h (by simp [expanderFields])

theorem expanderByte_bl {c : Cfg} (h : c.map.injective = true) (rs rw e : Level) (d : Nibble) :
    (expanderByte c rs rw e d).getLsbD c.map.bl = c.backlight :=
  expanderByte_field h (by simp [expanderFields])

/-- A nibble is its four bits, the high one first. -/
theorem nibble_eq_bits (d : Nibble) : BitVec.ofBool (d.getLsbD 3) ++ BitVec.ofBool (d.getLsbD 2) ++
    BitVec.ofBool (d.getLsbD 1) ++ BitVec.ofBool (d.getLsbD 0) = d := by revert d; decide

theorem expanderNibble_expanderByte {c : Cfg} (h : c.map.injective = true) (rs rw e : Level) (d : Nibble) :
    expanderNibble c (expanderByte c rs rw e d) = d := by
  have h4 : (expanderByte c rs rw e d).getLsbD c.map.db4 = d.getLsbD 0 := expanderByte_field h (by simp [expanderFields])
  have h5 : (expanderByte c rs rw e d).getLsbD c.map.db5 = d.getLsbD 1 := expanderByte_field h (by simp [expanderFields])
  have h6 : (expanderByte c rs rw e d).getLsbD c.map.db6 = d.getLsbD 2 := expanderByte_field h (by simp [expanderFields])
  have h7 : (expanderByte c rs rw e d).getLsbD c.map.db7 = d.getLsbD 3 := expanderByte_field h (by simp [expanderFields])
  rw [expanderNibble, h4, h5, h6, h7, nibble_eq_bits]

/-- Settles O19: the positions of an injective map are distinct, so no field covers another. -/
theorem expanderByteFieldsReadBack : Obligations.ExpanderByteFieldsReadBack := fun _ rs rw e d h =>
  ⟨expanderByte_rs h rs rw e d, expanderByte_rw h rs rw e d, expanderByte_e h rs rw e d, expanderByte_bl h rs rw e d,
    expanderNibble_expanderByte h rs rw e d⟩

end Sys2Proof.Machine

namespace Sys2Proof.Machine

/-! ## Written bytes in closed form -/

theorem onHighLines_getLsbD : ∀ (d : Nibble) (k : Fin 8), 4 ≤ k.val →
    (onHighLines d).getLsbD k = d.getLsbD (k.val - 4) := by decide

theorem lowNibble_getLsbD (v : Byte) (k : Fin 8) : (lowNibble v).getLsbD (k.val - 4) = v.getLsbD (k.val - 4) := by
  have hk : k.val - 4 < 4 := by omega
  simp [lowNibble, hk]

/-- Setting the lines DB7..DB4 twice is setting them once. -/
theorem highLines_again {α : Type} (d : Vector α 8) (f g : Fin 8 → α) :
    (Vector.ofFn fun k : Fin 8 => if 4 ≤ k.val then f k else
      (Vector.ofFn fun k : Fin 8 => if 4 ≤ k.val then g k else d[k])[k]) =
      Vector.ofFn fun k => if 4 ≤ k.val then f k else d[k] :=
  lines_ext fun k => by by_cases hk : 4 ≤ k.val <;> simp [hk]

/-- One nibble write of GPIO4 in closed form (R142). -/
theorem gpio4WriteNibble_eq (rs : RegisterSelect) (d : Nibble) (n : Nat) (s : State) :
    gpio4WriteNibble rs d n s =
      { s with trace := s.trace ++ gpioWriteTrace s.cfg s.dir [4, 5, 6, 7] (rsLevel rs) (d ++ 0#4) ++ delayTrace n
               x := { s.x with rs := rsLevel rs, rw := !s.cfg.hasRW && s.x.rw, e := false
                               db := Vector.ofFn fun k => if 4 ≤ k.val then d.getLsbD (k.val - 4) else s.x.db[k] }
               dir := Vector.ofFn fun k => if 4 ≤ k.val then .out else s.dir[k] } := by
  have hdb : (fun k : Fin 8 => if 4 ≤ k.val then (onHighLines d).getLsbD k else s.x.db[k]) =
      fun k => if 4 ≤ k.val then d.getLsbD (k.val - 4) else s.x.db[k] := by
    funext k
    split
    · next hk => exact onHighLines_getLsbD d k hk
    · rfl
  rw [gpio4WriteNibble, gpioWrite_gpio4, hdb, onHighLines_eq]

/-- One nibble write of the expander bridge in closed form (R172). -/
theorem i2cWriteNibble_eq (rs : RegisterSelect) (d : Nibble) (n : Nat) (s : State) :
    i2cWriteNibble rs d n s =
      { s with trace := s.trace ++ i2cWriteTrace s.cfg (rsLevel rs) d ++ delayTrace n
               x := { s.x with xreg := expanderByte s.cfg (rsLevel rs) false false d } } := by
  simp [i2cWriteNibble, i2cWrite, State.delay_eq, State.writeXreg, i2cWriteTrace, rwWrite]

/-- Settles O10: the closed forms of the nibble writes of GPIO4 and of the expander bridge. -/
theorem writeNibbleEffect : Obligations.WriteNibbleEffect := by
  refine fun s rs d n => ⟨fun h => ?_, fun h => ?_, fun h => by simp [writeNibble, h]⟩
  · refine ⟨_, writeNibble_gpio4 h rs d n, ?_⟩
    rw [gpio4WriteNibble_eq, rsLevel_eq]
    exact ⟨rfl, fun k => Vector.getElem_ofFn _, fun k => Vector.getElem_ofFn _, rfl⟩
  · rw [writeNibble_i2c h, i2cWriteNibble_eq, rsLevel_eq]

/-- One byte write in closed form: one transfer, or two of which the second finds every line driven (R143, R161, R173). -/
theorem writeByte_eq (rs : RegisterSelect) (v : Byte) (s : State) :
    writeByte rs v 0 s = afterWriteByte s (rsLevel rs) v := by
  have hrw : (!s.cfg.hasRW && s.x.rw) = if s.cfg.hasRW then false else s.x.rw := by cases s.cfg.hasRW <;> rfl
  cases ht : s.cfg.transport with
  | gpio4 =>
    simp only [writeByte, afterWriteByte, ht, gpio4WriteNibble_eq, gpioWriteTrace_after_gpio4, writeByteTrace,
      latchesAfterWrite, dirAfter, delayTrace_zero, List.append_nil, List.append_assoc, highLines_again,
      lowNibble_getLsbD, Bool.and_self_left]
    rw [hrw, highNibble, lowNibble]
  | gpio8 =>
    simp only [writeByte, afterWriteByte, ht, gpio8WriteByte, gpioWrite_gpio8, writeByteTrace, latchesAfterWrite,
      dirAfter, hrw, delayTrace_zero, List.append_nil]
  | i2c =>
    simp only [writeByte, afterWriteByte, ht, i2cWriteNibble_eq, writeByteTrace, latchesAfterWrite, dirAfter,
      highNibble, lowNibble, delayTrace_zero, List.append_nil, List.append_assoc]

/-- Settles O8: the closed form of a byte write. -/
theorem writeByteEffect : Obligations.WriteByteEffect := fun s rs v => by
  rw [writeByte_eq, rsLevel_eq]

/-! ## Read bytes in closed form -/

/-- The nibble the environment's answers from the `n`-th on make, the first on bit 0 (R57). -/
def answeredNibble (s : State) (n : Nat) : Nibble :=
  BitVec.ofBool (s.answerLevel (n + 3)) ++ BitVec.ofBool (s.answerLevel (n + 2)) ++
    BitVec.ofBool (s.answerLevel (n + 1)) ++ BitVec.ofBool (s.answerLevel n)

theorem answeredNibble_getLsbD (s : State) (n : Nat) (k : Fin 4) :
    (answeredNibble s n).getLsbD k = s.answerLevel (n + k) := by
  have hbits : ∀ (b3 b2 b1 b0 : Bool),
      (BitVec.ofBool b3 ++ BitVec.ofBool b2 ++ BitVec.ofBool b1 ++ BitVec.ofBool b0).getLsbD k =
      if k = 3 then b3 else if k = 2 then b2 else if k = 1 then b1 else b0 := by revert k; decide
  rw [answeredNibble, hbits]
  fin_cases k <;> rfl

/-- Four samples of DB7..DB4 are a nibble on the byte's high bits. -/
theorem sampledBits_gpio4 (s : State) : sampledBits s gpio4Lines 0 0#8 = answeredNibble s 0 ++ 0#4 := by
  simp only [sampledBits, gpio4Lines, answeredNibble]
  generalize s.answerLevel 0 = b0, s.answerLevel (0 + 1) = b1, s.answerLevel (0 + 2) = b2, s.answerLevel (0 + 3) = b3
  revert b0 b1 b2 b3
  decide

/-- Eight samples of DB7..DB0 are the answered byte. -/
theorem sampledBits_gpio8 {s : State} (h : s.cfg.transport = .gpio8) : sampledBits s gpio8Lines 0 0#8 = answeredByte s := by
  simp only [sampledBits, gpio8Lines, answeredByte, h, Nat.zero_add, Nat.reduceAdd]
  generalize s.answerLevel 0 = b0, s.answerLevel 1 = b1, s.answerLevel 2 = b2, s.answerLevel 3 = b3,
    s.answerLevel 4 = b4, s.answerLevel 5 = b5, s.answerLevel 6 = b6, s.answerLevel 7 = b7
  revert b0 b1 b2 b3 b4 b5 b6 b7
  decide +kernel

/-- On GPIO4 the byte is the first nibble answered, then the second (R56). -/
theorem answeredByte_gpio4 {s : State} (h : s.cfg.transport = .gpio4) :
    answeredByte s = answeredNibble s 0 ++ answeredNibble s 4 := by
  simp only [answeredByte, answeredNibble, h, Nat.zero_add, Nat.reduceAdd]
  generalize s.answerLevel 0 = b0, s.answerLevel 1 = b1, s.answerLevel 2 = b2, s.answerLevel 3 = b3,
    s.answerLevel 4 = b4, s.answerLevel 5 = b5, s.answerLevel 6 = b6, s.answerLevel 7 = b7
  revert b0 b1 b2 b3 b4 b5 b6 b7
  decide +kernel

theorem joinNibbles_eq_append (d d' : Nibble) : joinNibbles d d' = d ++ d' := by revert d d'; decide

theorem highNibble_append (d d' : Nibble) : highNibble (d ++ d') = d := BitVec.extractLsb'_append_eq_left

theorem lowNibble_append (d d' : Nibble) : lowNibble (d ++ d') = d' := BitVec.extractLsb'_append_eq_right

/-- The trace of a read depends on the directions of its own lines alone. -/
theorem gpioReadTrace_congr {c : Cfg} {d d' : Vector Dir 8} {lines : List (Fin 8)} (h : ∀ k ∈ lines, d[k] = d'[k])
    (rs : Level) (v : Byte) : gpioReadTrace c d lines rs v = gpioReadTrace c d' lines rs v := by
  have hmap : (lines.map fun k => releaseTrace d[k] k) = lines.map fun k => releaseTrace d'[k] k :=
    List.map_congr_left fun k hk => by rw [h k hk]
  rw [gpioReadTrace, hmap, gpioReadTrace]

/-- After a GPIO4 read its lines are all released, which is what the next read finds. -/
theorem gpioReadTrace_after_gpio4 (c : Cfg) (d : Vector Dir 8) (rs : Level) (v : Byte) :
    gpioReadTrace c (Vector.ofFn fun k => if 4 ≤ k.val then .inp else d[k]) [4, 5, 6, 7] rs v =
      gpioReadTrace c (Vector.replicate 8 .inp) [4, 5, 6, 7] rs v := by
  apply gpioReadTrace_congr
  intro k hk
  simp only [List.mem_cons, List.not_mem_nil, or_false] at hk
  rcases hk with rfl | rfl | rfl | rfl <;> simp

/-- One read transfer in closed form where the RW line is owned, its trace the rule's for the byte sampled (R145,
R163). -/
theorem gpioRead_closed {lines : List (Fin 8)} (h : lines.Nodup) {s : State} (hrw : s.cfg.hasRW = true)
    (rs : RegisterSelect) (n : Nat) :
    gpioRead lines rs n s =
      (sampledBits s lines 0 0#8,
       { s with trace := s.trace ++ gpioReadTrace s.cfg s.dir lines (rsLevel rs) (sampledBits s lines 0 0#8) ++ delayTrace n
                x := { s.x with rs := rsLevel rs, rw := true, e := false }
                dir := lines.foldl (fun d (k : Fin 8) => d.set k .inp) s.dir
                levels := s.levels.drop lines.length, draws := s.draws + lines.length }) := by
  rw [gpioRead_eq lines h, sampleTrace_eq h 0 (r := 0#8) (by simp), gpioReadTrace, hrw, if_pos rfl]

/-- One nibble read of GPIO4 in closed form (R145). -/
theorem gpio4ReadNibble_eq {s : State} (hrw : s.cfg.hasRW = true) (rs : RegisterSelect) (n : Nat) :
    gpio4ReadNibble rs n s =
      (answeredNibble s 0,
       { s with trace := s.trace ++ gpioReadTrace s.cfg s.dir [4, 5, 6, 7] (rsLevel rs) (answeredNibble s 0 ++ 0#4) ++
                  delayTrace n
                x := { s.x with rs := rsLevel rs, rw := true, e := false }
                dir := Vector.ofFn fun k => if 4 ≤ k.val then .inp else s.dir[k]
                levels := s.levels.drop 4, draws := s.draws + 4 }) := by
  rw [gpio4ReadNibble, gpioRead_closed (lines := gpio4Lines) (by decide) hrw, sampledBits_gpio4, setLines_gpio4,
    highNibble_append]
  rfl

/-- One byte read of GPIO8 in closed form (R163). -/
theorem gpio8ReadByte_eq {s : State} (h : s.cfg.transport = .gpio8) (hrw : s.cfg.hasRW = true) (rs : RegisterSelect)
    (n : Nat) :
    gpio8ReadByte rs n s =
      (answeredByte s,
       { s with trace := s.trace ++ gpioReadTrace s.cfg s.dir [0, 1, 2, 3, 4, 5, 6, 7] (rsLevel rs) (answeredByte s) ++
                  delayTrace n
                x := { s.x with rs := rsLevel rs, rw := true, e := false }
                dir := Vector.replicate 8 .inp
                levels := s.levels.drop 8, draws := s.draws + 8 }) := by
  rw [gpio8ReadByte, gpioRead_closed (lines := gpio8Lines) (by decide) hrw, sampledBits_gpio8 h, setLines_gpio8, lines_const]
  rfl

/-- One nibble read of the expander bridge in closed form (R175). -/
theorem i2cReadNibble_eq (rs : RegisterSelect) (n : Nat) (s : State) :
    i2cReadNibble rs n s =
      (expanderNibble s.cfg (s.answerByte 0),
       { s with trace := s.trace ++ i2cReadTrace s.cfg (rsLevel rs) (s.answerByte 0) ++ delayTrace n
                x := { s.x with xreg := expanderByte s.cfg (rsLevel rs) true false 0xF#4 }
                bytes := s.bytes.drop 1, draws := s.draws + 1 }) := by
  simp [i2cReadNibble, i2cWrite, State.delay_eq, State.writeXreg, State.busRead, i2cReadTrace, rwRead, State.answerByte,
    delayTrace, tI2cRead]

theorem Cfg.canRead_hasRW {c : Cfg} (hr : c.canRead = true) (h : c.transport ≠ .i2c) : c.hasRW = true := by
  unfold Cfg.canRead at hr
  split at hr
  · exact hr
  · exact hr
  · next ht => exact absurd ht h

/-- Settles O11: the closed forms of the nibble reads of GPIO4 and of the expander bridge. -/
theorem readNibbleEffect : Obligations.ReadNibbleEffect := by
  refine fun s rs n hr => ⟨fun h => ?_, fun h => ?_, fun h => by simp [readNibble, h]⟩
  · have hrw := Cfg.canRead_hasRW hr (by simp [h])
    refine ⟨_, _, (readNibble_gpio4 h hr rs n).trans (congrArg _ (gpio4ReadNibble_eq hrw rs n)), ?_⟩
    rw [rsLevel_eq]
    exact ⟨fun k => (answeredNibble_getLsbD s 0 k).trans (by rw [Nat.zero_add]), rfl, fun k => Vector.getElem_ofFn _, rfl⟩
  · rw [readNibble_i2c h hr, i2cReadNibble_eq, rsLevel_eq]

/-! ### The answers after some were drawn -/

theorem answerLevel_drawn {s u : State} {m : Nat} (hl : u.levels = s.levels.drop m) (hd : u.draws = s.draws + m) (n : Nat) :
    u.answerLevel n = s.answerLevel (m + n) := by
  simp [State.answerLevel, hl, hd, Nat.add_assoc]

theorem answerByte_drawn {s u : State} {m : Nat} (hb : u.bytes = s.bytes.drop m) (hd : u.draws = s.draws + m) (n : Nat) :
    u.answerByte n = s.answerByte (m + n) := by
  simp [State.answerByte, hb, hd, Nat.add_assoc]

theorem answeredNibble_drawn {s u : State} {m : Nat} (hl : u.levels = s.levels.drop m) (hd : u.draws = s.draws + m) :
    answeredNibble u 0 = answeredNibble s m := by
  simp only [answeredNibble, answerLevel_drawn hl hd, Nat.zero_add, Nat.add_zero]

/-- One byte read in closed form: one transfer, or two of which the second finds every line released (R146, R163,
R176). -/
theorem readByteBody_eq {s : State} (hr : s.cfg.canRead = true) (rs : RegisterSelect) :
    readByteBody rs 0 s = (answeredByte s, afterReadByte s (rsLevel rs)) := by
  cases ht : s.cfg.transport with
  | gpio4 =>
    have hrw := Cfg.canRead_hasRW hr (by simp [ht])
    have hfirst := gpio4ReadNibble_eq hrw rs 0
    have hsecond := gpio4ReadNibble_eq (s := (gpio4ReadNibble rs 0 s).2) (by rwa [gpio4ReadNibble_cfg]) rs 0
    rw [answeredNibble_drawn (s := s) (m := 4) (by rw [hfirst]) (by rw [hfirst])] at hsecond
    simp only [readByteBody, ht, hsecond, afterReadByte, readByteTrace, latchesAfterRead, dirAfter]
    rw [hfirst]
    simp only [answeredByte_gpio4 ht, joinNibbles_eq_append, gpioReadTrace_after_gpio4, highLines_again,
      delayTrace_zero, List.append_nil, List.append_assoc, List.drop_drop, Nat.add_assoc, Nat.reduceAdd]
    rw [← highNibble, ← lowNibble, highNibble_append, lowNibble_append]
  | gpio8 =>
    have hrw := Cfg.canRead_hasRW hr (by simp [ht])
    simp only [readByteBody, ht, gpio8ReadByte_eq ht hrw, afterReadByte, readByteTrace, latchesAfterRead, dirAfter,
      delayTrace_zero, List.append_nil]
  | i2c =>
    have hfirst := i2cReadNibble_eq rs 0 s
    have hsecond := i2cReadNibble_eq rs 0 (i2cReadNibble rs 0 s).2
    rw [answerByte_drawn (s := s) (m := 1) (by rw [hfirst]) (by rw [hfirst])] at hsecond
    simp only [readByteBody, ht, hsecond, afterReadByte, readByteTrace, latchesAfterRead, dirAfter]
    rw [hfirst]
    simp only [answeredByte, ht, joinNibbles_eq_append, delayTrace_zero, List.append_nil, List.append_assoc,
      List.drop_drop, Nat.add_assoc, Nat.reduceAdd]

/-- Settles O9: a readable adapter's byte read is its body, in closed form. -/
theorem readByteEffect : Obligations.ReadByteEffect := fun _ rs hr => by
  rw [readByte_ok hr, readByteBody_eq hr, rsLevel_eq]

end Sys2Proof.Machine

namespace Sys2Proof.Machine

/-! ## Completion in closed form (R195, R196) -/

theorem State.finish_idle {s : State} (h : s.inFlight = none) (v : Value) :
    s.finish v = { s with outcome := some (.ok v) } := by
  rw [State.finish, ← h]

theorem complete_instr {s : State} (h : s.inFlight = none) (v : Value) : complete .instr v s = afterInstrWait s v := by
  cases hm : s.cfg.waitMode with
  | fixed => simp only [complete, afterInstrWait, hm, State.delay_eq, State.finish, ← h]
  | poll => simp only [complete, afterInstrWait, hm]

/-- An instruction of the `T_INSTR` class is its byte, then that class's wait (R211). -/
theorem issue_instr {i : Instruction} (hc : i.delayClass = .instr) {s : State} (h : s.inFlight = none) :
    issue i s = afterInstrWait (afterWriteByte s (rsLevel i.registerSelect) i.opcode) .absent := by
  rw [issue, hc, writeByte_eq, complete_instr (by exact h)]

/-! ## The operations that write (R111 to R119) -/

/-- An idle engine's operation whose instruction is of the `T_INSTR` class. -/
theorem exec_instr {s : State} (hs : s.inFlight = none) {i : Instr} {e : Instruction} (hbody : opBody i = issue e)
    (hc : e.delayClass = .instr) :
    exec i s = .next (afterInstrWait (afterWriteByte s.begin (rsLevel e.registerSelect) e.opcode) .absent) := by
  rw [exec_idle hs, hbody, issue_instr hc (by exact hs)]

/-- An idle engine's operation whose instruction is of the `T_CLEAR_HOME` class. -/
theorem exec_clearHome {s : State} (hs : s.inFlight = none) {i : Instr} {e : Instruction} (hbody : opBody i = issue e)
    (hc : e.delayClass = .clearHome) :
    exec i s = .next { afterWriteByte s.begin (rsLevel e.registerSelect) e.opcode with
      trace := s.trace ++ writeByteTrace s.cfg s.dir (rsLevel e.registerSelect) e.opcode ++ [.delay 1520]
      outcome := some (.ok .absent) } := by
  rw [exec_idle hs, hbody, issue_clearHome hc, writeByte_eq, State.delay_eq, State.finish_idle (by exact hs)]
  rfl

/-- Settles O21: the two instructions of the `T_CLEAR_HOME` class. -/
theorem clearAndHomeComplete : Obligations.ClearAndHomeComplete := fun _ hs =>
  ⟨exec_clearHome hs (e := encodeClear) rfl rfl, exec_clearHome hs (e := encodeHome) rfl rfl⟩

theorem opEntry_eq_add : ∀ p q, opEntry p q = 0x04#8 + (if p then 2#8 else 0#8) + (if q then 1#8 else 0#8) := by decide

theorem opDisplay_eq_add : ∀ p q r, opDisplay p q r =
    0x08#8 + (if p then 4#8 else 0#8) + (if q then 2#8 else 0#8) + (if r then 1#8 else 0#8) := by decide

theorem opShift_eq_add : ∀ p q, opShift p q = 0x10#8 + (if p then 0#8 else 8#8) + (if q then 4#8 else 0#8) := by decide

theorem opFuncset_eq_add : ∀ p q r, opFuncset p q r =
    0x20#8 + (if p then 16#8 else 0#8) + (if q then 8#8 else 0#8) + (if r then 4#8 else 0#8) := by decide

/-- Settles O22: each flag of an opcode has its own bit, so setting it is adding it. -/
theorem flagOperationsComplete : Obligations.FlagOperationsComplete := by
  intro s p q r hs
  rw [← opEntry_eq_add, ← opDisplay_eq_add, ← opShift_eq_add, ← opFuncset_eq_add]
  exact ⟨exec_instr hs (e := encodeEntryMode p q) rfl rfl, exec_instr hs (e := encodeDisplayControl p q r) rfl rfl,
    exec_instr hs (e := encodeShift p q) rfl rfl, exec_instr hs (e := encodeFunctionSet p q r) rfl rfl⟩

theorem opBody_setcg {a : Int} (h0 : 0 ≤ a) (h : a ≤ 63) :
    opBody (.setcg a) = issue ⟨opSetcg a, .command, .instr⟩ := by
  rw [opBody, encodeSetCgramAddress_ok h0 h]
  rfl

theorem opBody_setdd {a : Int} (h0 : 0 ≤ a) (h : a ≤ 127) :
    opBody (.setdd a) = issue ⟨opSetdd a, .command, .instr⟩ := by
  rw [opBody, encodeSetDdramAddress_ok h0 h]
  rfl

/-- Settles O23: an address in range passes the check and is added to its base. -/
theorem setAddressCompletes : Obligations.SetAddressCompletes := by
  refine fun s a hs => ⟨fun h => ?_, fun h => ?_⟩
  · rw [← opSetcg_natCast h]
    exact exec_instr hs (opBody_setcg (by omega) (by omega)) rfl
  · rw [← opSetdd_natCast h]
    exact exec_instr hs (opBody_setdd (by omega) (by omega)) rfl

/-- Settles O24: the range check raises before the transfer. -/
theorem setAddressOutOfRangeRaises : Obligations.SetAddressOutOfRangeRaises := fun _ _ hs =>
  ⟨fun h => exec_setcg_raises hs h, fun h => exec_setdd_raises hs h⟩

/-- Settles O25: the byte is the instruction's opcode, with RS high. -/
theorem writeDataCompletes : Obligations.WriteDataCompletes := fun _ v hs =>
  exec_instr hs (e := encodeWriteData v) rfl rfl

/-! ## The operations that read (R120, R121) -/

/-- Settles O26: one read of the data port, then the wait of the `T_INSTR` class. -/
theorem readDataCompletes : Obligations.ReadDataCompletes := by
  intro s hs hr
  rw [exec_idle hs, opBody, fetch_ok (s := s.begin) hr, readByteBody_eq (s := s.begin) hr, complete_instr (by exact hs)]
  rfl

/-- Settles O27: one read of the status port, and no wait. -/
theorem readStatusCompletes : Obligations.ReadStatusCompletes := by
  intro s hs hr
  rw [exec_idle hs, opBody, fetch_ok (s := s.begin) hr, readByteBody_eq (s := s.begin) hr, complete,
    State.finish_idle (by exact hs)]
  rfl

theorem readError_of_not_canRead {c : Cfg} (h : c.canRead = false) :
    readError c = some (if c.transport = .i2c then .readOnWriteOnlyExpander else .readOnWriteOnlyWiring) := by
  unfold Cfg.canRead at h
  cases ht : c.transport <;> simp_all [readError]

/-- Settles O29: step 0 of the read finds the adapter's error. -/
theorem readOnUnreadableAdapterRaises : Obligations.ReadOnUnreadableAdapterRaises := fun _ _ hs hr hi =>
  exec_read_raises hs (readError_of_not_canRead hr) hi

/-! ## The power-up sequence (R241 to R243) -/

/-- DB7..DB4 hold the committing nibble 2. -/
theorem highLines_two (d : Vector Level 8) :
    (Vector.ofFn fun k : Fin 8 => if 4 ≤ k.val then (0x2#4).getLsbD (k.val - 4) else d[k]) =
      (((d.set 4 false).set 5 true).set 6 false).set 7 false :=
  lines_ext fun k => by fin_cases k <;> simp

/-- Settles O30: four nibble writes in closed form, of which the last three find every line driven. -/
theorem initCompletesOnGpio4 : Obligations.InitCompletesOnGpio4 := by
  intro s hs h
  rw [exec_idle hs, opBody]
  simp only [initManually, State.begin_cfg, h, initNibbles, State.delay_eq, gpio4WriteNibble_eq,
    gpioWriteTrace_after_gpio4, highLines_again, highLines_two, Bool.and_self_left]
  rw [State.finish_idle (by exact hs), dirAfter, h]
  rfl

/-- DB7..DB0 hold the byte `0x30`. -/
theorem byte30_levels : (Vector.ofFn fun k : Fin 8 => (0x30#8).getLsbD k) =
    #v[false, false, false, false, true, true, false, false] := by decide

/-- Settles O31: four byte writes in closed form, of which the last three find every line driven. -/
theorem initCompletesOnGpio8 : Obligations.InitCompletesOnGpio8 := by
  intro s hs h
  rw [exec_idle hs, opBody]
  simp only [initManually, State.begin_cfg, h, initBytes, gpio8WriteByte, State.delay_eq, gpioWrite_gpio8, Bool.and_self_left]
  rw [State.finish_idle (by exact hs), ← byte30_levels]
  rfl

/-- Settles O32: four nibble writes in closed form. -/
theorem initCompletesOnI2c : Obligations.InitCompletesOnI2c := by
  intro s hs h
  rw [exec_idle hs, opBody]
  simp only [initManually, State.begin_cfg, h, initNibbles, State.delay_eq, i2cWriteNibble_eq]
  rw [State.finish_idle (by exact hs)]
  rfl

end Sys2Proof.Machine

namespace Sys2Proof.Machine

/-! ## Latches, directions and the trace (R22, R23, R24) -/

theorem lastSet_set (t : List Event) (l l' : Line) (b : Level) :
    lastSet l (t ++ [.set l' b]) = if l' = l then some b else lastSet l t := by
  simp [lastSet]

theorem lastDir_initOut (t : List Event) (l l' : Line) :
    lastDir l (t ++ [.initOut l']) = if l' = l then some .out else lastDir l t := by
  simp [lastDir]

theorem lastDir_initIn (t : List Event) (l l' : Line) :
    lastDir l (t ++ [.initIn l']) = if l' = l then some .inp else lastDir l t := by
  simp [lastDir]

theorem lastBusWrite_bw (t : List Event) (a : BusAddr) (v : Byte) : lastBusWrite a (t ++ [.bw a v]) = some v := by
  simp [lastBusWrite]

theorem lastSet_other (t : List Event) (l : Line) {ev : Event} (h : ∀ l' b, ev ≠ .set l' b) :
    lastSet l (t ++ [ev]) = lastSet l t := by
  rw [lastSet, List.foldl_append]
  cases ev with
  | set l' b => exact absurd rfl (h l' b)
  | _ => rfl

theorem lastDir_other (t : List Event) (l : Line) {ev : Event} (h : ∀ l', ev ≠ .initOut l' ∧ ev ≠ .initIn l') :
    lastDir l (t ++ [ev]) = lastDir l t := by
  rw [lastDir, List.foldl_append]
  cases ev with
  | initOut l' => exact absurd rfl (h l').1
  | initIn l' => exact absurd rfl (h l').2
  | _ => rfl

theorem lastBusWrite_other (t : List Event) (a : BusAddr) {ev : Event} (h : ∀ a' v, ev ≠ .bw a' v) :
    lastBusWrite a (t ++ [ev]) = lastBusWrite a t := by
  rw [lastBusWrite, List.foldl_append]
  cases ev with
  | bw a' v => exact absurd rfl (h a' v)
  | _ => rfl

/-- The state agrees with its trace, and what it does not own is as constructed. -/
structure LinesRecorded (s : State) : Prop where
  latches : LatchesFollowTrace s
  unowned : UnownedAtRest s

/-- An event that gives no line a level or a direction and the expander no byte. -/
def Event.isQuiet : Event → Bool
  | .get _ _ => true
  | .br _ _ => true
  | .delay _ => true
  | .initOut _ => false
  | .initIn _ => false
  | .set _ _ => false
  | .bw _ _ => false

theorem LinesRecorded.quiet {s t : State} (h : LinesRecorded s) (hc : t.cfg = s.cfg) (hx : t.x = s.x)
    (hd : t.dir = s.dir) {ev : Event} (hev : ev.isQuiet = true) (ht : t.trace = s.trace ++ [ev]) : LinesRecorded t := by
  have hset : ∀ l, lastSet l t.trace = lastSet l s.trace := fun l => by
    rw [ht, lastSet_other _ _ fun l' b e => by cases e; cases hev]
  have hdir : ∀ l, lastDir l t.trace = lastDir l s.trace := fun l => by
    rw [ht, lastDir_other _ _ fun l' => ⟨fun e => (by cases e; cases hev), fun e => (by cases e; cases hev)⟩]
  have hbus : ∀ a, lastBusWrite a t.trace = lastBusWrite a s.trace := fun a => by
    rw [ht, lastBusWrite_other _ _ fun a' v e => by cases e; cases hev]
  obtain ⟨⟨h1, h2, h3⟩, h4, h5, h6⟩ := h
  refine ⟨⟨?_, ?_, ?_⟩, ?_, ?_, ?_⟩ <;> simpa only [hc, hx, hd, hset, hdir, hbus]

theorem LinesRecorded.setLine {s : State} (h : LinesRecorded s) {l : Line} (ho : owns s.cfg l = true) (b : Level) :
    LinesRecorded (s.setLine l b) := by
  obtain ⟨⟨hset, hdir, hbus⟩, hlow, hout, hreg⟩ := h
  refine ⟨⟨fun l' hl' => ?_, fun k hk => ?_, fun ht => ?_⟩, fun l' hl' => ?_, hout, fun ht => ?_⟩
  · rw [State.setLine_trace, lastSet_set, State.setLine_x]
    split
    · next e => rw [← e, Latches.level_latch_same]
    · next e => rw [Latches.level_latch_other _ _ (Ne.symm e), hset l' hl']
  · rw [State.setLine_trace, lastDir_other _ _ (by simp)]
    exact hdir k hk
  · rw [State.setLine_trace, State.setLine_cfg, lastBusWrite_other _ _ (by simp), State.setLine_x, Latches.latch_xreg]
    exact hbus ht
  · have hne : l' ≠ l := fun e => by simp [e, ho] at hl'
    rw [State.setLine_x, Latches.level_latch_other _ _ hne, hlow l' hl']
  · simpa using hreg ht

theorem LinesRecorded.turn {s t : State} (h : LinesRecorded s) {k : Fin 8} (hk : k ∈ dataLines s.cfg) {d : Dir}
    (hc : t.cfg = s.cfg) (hx : t.x = s.x) (hd : t.dir = s.dir.set k d)
    (hset : ∀ l, lastSet l t.trace = lastSet l s.trace)
    (hdir : ∀ l, lastDir l t.trace = if .db k = l then some d else lastDir l s.trace)
    (hbus : ∀ a, lastBusWrite a t.trace = lastBusWrite a s.trace) : LinesRecorded t := by
  obtain ⟨⟨h1, h2, h3⟩, h4, h5, h6⟩ := h
  refine ⟨⟨?_, fun j hj => ?_, ?_⟩, ?_, fun j hj => ?_, ?_⟩
  · simpa only [hc, hx, hset] using h1
  · rw [hc] at hj
    rw [hdir, hd]
    by_cases e : k = j
    · simp [e]
    · have hv : k.val ≠ j.val := fun hv => e (Fin.ext hv)
      simp [e, hv, h2 j hj]
  · simpa only [hc, hx, hbus] using h3
  · simpa only [hc, hx] using h4
  · rw [hc] at hj
    have hv : k.val ≠ j.val := fun hv => hj (Fin.ext hv ▸ hk)
    rw [hd]
    simpa [hv] using h5 j hj
  · simpa only [hc, hx] using h6

theorem LinesRecorded.turnOut {s : State} (h : LinesRecorded s) {k : Fin 8} (hk : k ∈ dataLines s.cfg) :
    LinesRecorded (s.turnOut k) :=
  h.turn hk rfl rfl rfl (fun _ => lastSet_other _ _ (by simp)) (fun l => lastDir_initOut s.trace l (.db k))
    fun _ => lastBusWrite_other _ _ (by simp)

theorem LinesRecorded.turnIn {s : State} (h : LinesRecorded s) {k : Fin 8} (hk : k ∈ dataLines s.cfg) :
    LinesRecorded (s.turnIn k) :=
  h.turn hk rfl rfl rfl (fun _ => lastSet_other _ _ (by simp)) (fun l => lastDir_initIn s.trace l (.db k))
    fun _ => lastBusWrite_other _ _ (by simp)

theorem LinesRecorded.delay {s : State} (h : LinesRecorded s) (n : Nat) : LinesRecorded (s.delay n) := by
  unfold State.delay
  split
  · exact h
  · exact h.quiet rfl rfl rfl rfl (State.emit_trace s (.delay n))

theorem LinesRecorded.sample {s : State} (h : LinesRecorded s) (k : Fin 8) : LinesRecorded (s.sample k).2 :=
  h.quiet rfl rfl rfl rfl (State.sample_trace s k)

theorem LinesRecorded.busRead {s : State} (h : LinesRecorded s) : LinesRecorded s.busRead.2 :=
  h.quiet rfl rfl rfl rfl (State.busRead_trace s)

theorem LinesRecorded.writeXreg {s : State} (h : LinesRecorded s) (ht : s.cfg.transport = .i2c) (v : Byte) :
    LinesRecorded (s.writeXreg v) := by
  obtain ⟨⟨hset, hdir, -⟩, hlow, hout, -⟩ := h
  have hlevel : ∀ l, (s.writeXreg v).x.level l = s.x.level l := fun l => by cases l <;> rfl
  refine ⟨⟨fun l hl => ?_, fun k hk => ?_, fun _ => lastBusWrite_bw ..⟩, fun l hl => ?_, hout, fun hn => absurd ht hn⟩
  · rw [hlevel, State.writeXreg_trace, lastSet_other _ _ (by simp)]
    exact hset l hl
  · rw [State.writeXreg_trace, lastDir_other _ _ (by simp)]
    exact hdir k hk
  · rw [hlevel, hlow l hl]

end Sys2Proof.Machine

namespace Sys2Proof.Machine

/-! ## The watcher along a trace -/

theorem watch_nil (c : Cfg) (w : Watch) : watch c w [] = some w := rfl

theorem watch_cons (c : Cfg) (w : Watch) (ev : Event) (t : List Event) :
    watch c w (ev :: t) = (watchEvent c w ev).bind fun w' => watch c w' t := by
  rw [watch]
  cases watchEvent c w ev <;> rfl

theorem watch_append (c : Cfg) (w : Watch) (t u : List Event) :
    watch c w (t ++ u) = (watch c w t).bind fun w' => watch c w' u := by
  induction t generalizing w with
  | nil => rfl
  | cons ev t ih =>
    rw [List.cons_append, watch_cons, watch_cons, Option.bind_assoc]
    exact congrArg _ (funext ih)

theorem watch_concat {c : Cfg} {w w' w'' : Watch} {t : List Event} {ev : Event} (ht : watch c w t = some w')
    (hev : watchEvent c w' ev = some w'') : watch c w (t ++ [ev]) = some w'' := by
  simp only [watch_append, ht, Option.bind_some, watch_cons, hev, watch_nil]

theorem watchEvent_gpio {c : Cfg} (h : c.transport ≠ .i2c) (w : Watch) (ev : Event) :
    watchEvent c w ev = watchLine c w ev := by
  cases ht : c.transport with
  | gpio4 => rw [watchEvent, ht]
  | gpio8 => rw [watchEvent, ht]
  | i2c => exact absurd ht h

theorem watchEvent_i2c {c : Cfg} (h : c.transport = .i2c) (w : Watch) (ev : Event) :
    watchEvent c w ev = watchBus c w ev := by
  rw [watchEvent, h]

/-! ## A GPIO transfer under way -/

/-- The watcher has the state's own levels and directions, and nothing is owed. -/
structure Watch.Agrees (w : Watch) (s : State) : Prop where
  e    : w.e = s.x.e
  rw   : w.rw = (s.cfg.hasRW && s.x.rw)
  dir  : ∀ k, k ∈ dataLines s.cfg → w.dir[k] = s.dir[k]
  owed : w.owed = 0

/-- A GPIO engine within a transfer: its record is as the trace gives it, and a watcher of the whole trace agrees with it,
the lines having been still for at least `m` microseconds. -/
structure GpioLive (s : State) (m : Nat) : Prop where
  gpio     : s.cfg.transport ≠ .i2c
  recorded : LinesRecorded s
  watched  : ∃ w, watch s.cfg .start s.trace = some w ∧ w.Agrees s ∧ m ≤ w.since

/-- When a line of a GPIO engine may be given a level, its lines having been still for `m` microseconds (R141, R192). -/
def MaySet (s : State) (m : Nat) : Line → Level → Prop
  | .e, true => s.x.e = false ∧ tSettle ≤ m
  | .e, false => s.x.e = true → tPulse ≤ m
  | .rs, _ => s.x.e = false
  | .rw, _ => s.x.e = false
  | .db k, _ => s.x.e = false ∧ (s.cfg.hasRW && s.x.rw) = false ∧ s.dir[k] = .out

/-- What the watcher makes of a level that may be set. -/
theorem watchLine_set {s : State} {m : Nat} {w : Watch} (h : w.Agrees s) (hm : m ≤ w.since) {l : Line}
    (ho : owns s.cfg l = true) {b : Level} (hok : MaySet s m l b) :
    ∃ w', watchLine s.cfg w (.set l b) = some w' ∧ w'.Agrees (s.setLine l b) := by
  obtain ⟨he, hrw, hdir, howed⟩ := h
  cases l with
  | rs =>
    have hlow : s.x.e = false := hok
    exact ⟨{ w with since := 0 }, by simp [watchLine, ho, he, hlow], he, hrw, hdir, howed⟩
  | rw =>
    have hlow : s.x.e = false := hok
    have hown : s.cfg.hasRW = true := (by simpa [owns] using ho : _ ∧ _).2
    exact ⟨{ w with rw := b, since := 0 }, by simp [watchLine, ho, he, hlow], he, by simp [Latches.latch, hown], hdir, howed⟩
  | e =>
    cases b with
    | true =>
      obtain ⟨hlow, hsettle⟩ : s.x.e = false ∧ tSettle ≤ m := hok
      exact ⟨{ w with e := true, since := 0 }, by simp [watchLine, ho, he, hlow, hsettle.trans hm], rfl, hrw, hdir, howed⟩
    | false =>
      have hpulse : w.e = true → tPulse ≤ w.since := fun hw => (show tPulse ≤ m from hok (he ▸ hw)).trans hm
      exact ⟨{ w with e := false, since := 0 }, by simp [watchLine, ho]; exact hpulse, rfl, hrw, hdir, howed⟩
  | db k =>
    obtain ⟨hlow, hwrite, hout⟩ : s.x.e = false ∧ (s.cfg.hasRW && s.x.rw) = false ∧ s.dir[k] = .out := hok
    have hk := owns_db.mp ho
    exact ⟨{ w with since := 0 }, if_pos ⟨hk, he.trans hlow, hrw.trans hwrite, (hdir k hk).trans hout⟩, he, hrw, hdir, howed⟩

theorem GpioLive.setLine {s : State} {m : Nat} (h : GpioLive s m) {l : Line} (ho : owns s.cfg l = true) {b : Level}
    (hok : MaySet s m l b) : GpioLive (s.setLine l b) 0 := by
  obtain ⟨w, hw, hagrees, hm⟩ := h.watched
  obtain ⟨w', hw', hagrees'⟩ := watchLine_set hagrees hm ho hok
  exact ⟨h.gpio, h.recorded.setLine ho b, w', watch_concat hw ((watchEvent_gpio h.gpio ..).trans hw'), hagrees', Nat.zero_le _⟩

theorem GpioLive.delay {s : State} {m : Nat} (h : GpioLive s m) (n : Nat) : GpioLive (s.delay n) (m + n) := by
  obtain ⟨w, hw, ⟨he, hrw, hdir, howed⟩, hm⟩ := h.watched
  refine ⟨by simpa [State.delay_eq] using h.gpio, h.recorded.delay n, ?_⟩
  unfold State.delay
  split
  · next hn => exact ⟨w, hw, ⟨he, hrw, hdir, howed⟩, by omega⟩
  · exact ⟨{ w with since := w.since + n }, watch_concat hw (watchEvent_gpio h.gpio ..), ⟨he, hrw, hdir, howed⟩,
      Nat.add_le_add_right hm n⟩

/-- Turning a line keeps the watcher's directions and the state's the same. -/
theorem turned_agree {d d' : Vector Dir 8} {ks : List (Fin 8)} (h : ∀ k, k ∈ ks → d[k] = d'[k]) (j : Fin 8) (a : Dir) :
    ∀ k, k ∈ ks → (d.set j a)[k] = (d'.set j a)[k] := by
  intro k hk
  by_cases e : j.val = k.val
  · simp [e]
  · simpa [e] using h k hk

theorem GpioLive.turnOut {s : State} {m : Nat} (h : GpioLive s m) {k : Fin 8} (hk : k ∈ dataLines s.cfg)
    (he : s.x.e = false) (hwrite : (s.cfg.hasRW && s.x.rw) = false) : GpioLive (s.turnOut k) 0 := by
  obtain ⟨w, hw, hagrees, hm⟩ := h.watched
  refine ⟨h.gpio, h.recorded.turnOut hk, { w with dir := w.dir.set k .out, since := 0 }, ?_,
    ⟨hagrees.e, hagrees.rw, turned_agree hagrees.dir k .out, hagrees.owed⟩, Nat.zero_le _⟩
  exact watch_concat hw ((watchEvent_gpio h.gpio ..).trans
    (if_pos ⟨hk, hagrees.e.trans he, hagrees.rw.trans hwrite⟩))

theorem GpioLive.turnIn {s : State} {m : Nat} (h : GpioLive s m) {k : Fin 8} (hk : k ∈ dataLines s.cfg)
    (he : s.x.e = false) : GpioLive (s.turnIn k) 0 := by
  obtain ⟨w, hw, hagrees, hm⟩ := h.watched
  refine ⟨h.gpio, h.recorded.turnIn hk, { w with dir := w.dir.set k .inp, since := 0 }, ?_,
    ⟨hagrees.e, hagrees.rw, turned_agree hagrees.dir k .inp, hagrees.owed⟩, Nat.zero_le _⟩
  exact watch_concat hw ((watchEvent_gpio h.gpio ..).trans (if_pos ⟨hk, hagrees.e.trans he⟩))

theorem GpioLive.sample {s : State} {m : Nat} (h : GpioLive s m) {k : Fin 8} (hk : k ∈ dataLines s.cfg)
    (he : s.x.e = true) (hread : (s.cfg.hasRW && s.x.rw) = true) (hin : s.dir[k] = .inp) (hm : tPulse ≤ m) :
    GpioLive (s.sample k).2 m := by
  obtain ⟨w, hw, hagrees, hmw⟩ := h.watched
  refine ⟨h.gpio, h.recorded.sample k, w, ?_, ⟨hagrees.e, hagrees.rw, hagrees.dir, hagrees.owed⟩, hmw⟩
  exact watch_concat hw ((watchEvent_gpio h.gpio ..).trans
    (if_pos ⟨hk, hagrees.e.trans he, hagrees.rw.trans hread, (hagrees.dir k hk).trans hin, hm.trans hmw⟩))

/-! ## GPIO transfers -/

theorem GpioLive.weaken {s : State} {m n : Nat} (h : GpioLive s m) (hn : n ≤ m) : GpioLive s n :=
  let ⟨w, hw, ha, hm⟩ := h.watched
  ⟨h.gpio, h.recorded, w, hw, ha, hn.trans hm⟩

theorem GpioLive.setControl {s : State} {m : Nat} (h : GpioLive s m) (he : s.x.e = false) (rs rw : Level) :
    GpioLive (setControl rs rw s) 0 := by
  obtain ⟨hrs, hoe, hrw⟩ := owns_control h.gpio
  have h1 : GpioLive (s.setLine .rs rs) 0 := h.setLine hrs he
  have h2 : GpioLive ((s.setLine .rs rs).setRW rw) 0 ∧ ((s.setLine .rs rs).setRW rw).x.e = false := by
    unfold State.setRW
    split
    · next hc => exact ⟨h1.setLine (hrw.trans hc) he, he⟩
    · exact ⟨h1, he⟩
  exact h2.1.setLine (by rw [State.setRW_eq]; exact hoe) fun ht => by simp [h2.2] at ht

theorem GpioLive.driveLines {v : Byte} {ks : List (Fin 8)} {s : State} {m : Nat} (h : GpioLive s m)
    (hks : ∀ k ∈ ks, k ∈ dataLines s.cfg) (he : s.x.e = false) (hwrite : (s.cfg.hasRW && s.x.rw) = false) :
    GpioLive (driveLines v ks s) 0 := by
  induction ks generalizing s m with
  | nil => exact h.weaken (Nat.zero_le m)
  | cons k ks ih =>
    have hk := hks k List.mem_cons_self
    have hstep : GpioLive (driveLine k (v.getLsbD k) s) 0 := by
      unfold driveLine
      split
      · exact (h.turnOut hk he hwrite).setLine (owns_db.mpr hk) ⟨he, hwrite, by simp⟩
      · next hd => exact h.setLine (owns_db.mpr hk) ⟨he, hwrite, by cases hv : s.dir[k] <;> simp_all⟩
    refine ih hstep ?_ ?_ ?_
    · rw [driveLine_eq]
      exact fun j hj => hks j (List.mem_cons_of_mem k hj)
    · rw [driveLine_eq]
      exact he
    · rw [driveLine_eq]
      exact hwrite

theorem GpioLive.releaseLines {ks : List (Fin 8)} {s : State} {m : Nat} (h : GpioLive s m)
    (hks : ∀ k ∈ ks, k ∈ dataLines s.cfg) (he : s.x.e = false) : GpioLive (releaseLines ks s) 0 := by
  induction ks generalizing s m with
  | nil => exact h.weaken (Nat.zero_le m)
  | cons k ks ih =>
    have hstep : GpioLive (releaseLine k s) 0 := by
      unfold releaseLine
      split
      · exact h.turnIn (hks k List.mem_cons_self) he
      · exact h.weaken (Nat.zero_le m)
    refine ih hstep ?_ ?_
    · rw [releaseLine_eq]
      exact fun j hj => hks j (List.mem_cons_of_mem k hj)
    · rw [releaseLine_eq]
      exact he

theorem GpioLive.sampleLines {ks : List (Fin 8)} {r : Byte} {s : State} {m : Nat} (h : GpioLive s m)
    (hks : ∀ k ∈ ks, k ∈ dataLines s.cfg) (he : s.x.e = true) (hread : (s.cfg.hasRW && s.x.rw) = true)
    (hin : ∀ k ∈ ks, s.dir[k] = .inp) (hm : tPulse ≤ m) : GpioLive (sampleLines ks r s).2 m := by
  induction ks generalizing s r with
  | nil => exact h
  | cons k ks ih =>
    exact ih (h.sample (hks k List.mem_cons_self) he hread (hin k List.mem_cons_self) hm)
      (fun j hj => hks j (List.mem_cons_of_mem k hj)) he hread (fun j hj => hin j (List.mem_cons_of_mem k hj))

theorem foldl_set_mem {α : Type} {ks : List (Fin 8)} {k : Fin 8} (hk : k ∈ ks) (d : Vector α 8) (a : α) :
    (ks.foldl (fun d (j : Fin 8) => d.set j a) d)[k] = a := by
  induction ks using List.reverseRecOn with
  | nil => cases hk
  | append_singleton ks j ih =>
    rw [List.foldl_append, List.foldl_cons, List.foldl_nil]
    by_cases e : j.val = k.val
    · simp [e]
    · have hk' : k ∈ ks := (List.mem_append.mp hk).resolve_right fun hm => e (by rw [List.mem_singleton.mp hm])
      simpa [e] using ih hk'

theorem GpioLive.gpioWrite {s : State} {m : Nat} (h : GpioLive s m) (he : s.x.e = false) (rs : RegisterSelect) (v : Byte)
    (n : Nat) : GpioLive (gpioWrite (dataLines s.cfg) rs v n s) 0 := by
  have hl := dataLines_nodup s.cfg
  obtain ⟨-, hoe, -⟩ := owns_control h.gpio
  have h4 : GpioLive (Machine.driveLines v (dataLines s.cfg) (Machine.setControl (rsLevel rs) rwWrite s)) 0 := by
    refine (h.setControl he (rsLevel rs) rwWrite).driveLines ?_ ?_ ?_ <;> rw [setControl_eq]
    · exact fun k hk => hk
    · cases s.cfg.hasRW <;> simp [rwWrite]
  have h6 := (h4.delay tSettle).setLine (l := .e) (b := true)
    (by simpa [State.delay_eq, driveLines_eq _ _ _ hl, setControl_eq] using hoe)
    ⟨by simp [State.delay_eq, driveLines_eq _ _ _ hl, setControl_eq], Nat.le_add_left ..⟩
  have h8 := (h6.delay tPulse).setLine (l := .e) (b := false)
    (by simpa [State.delay_eq, driveLines_eq _ _ _ hl, setControl_eq] using hoe) fun _ => Nat.le_add_left ..
  exact (h8.delay n).weaken (Nat.zero_le _)

theorem GpioLive.gpioRead {s : State} {m : Nat} (h : GpioLive s m) (he : s.x.e = false) (hrw : s.cfg.hasRW = true)
    (rs : RegisterSelect) (n : Nat) : GpioLive (gpioRead (dataLines s.cfg) rs n s).2 0 := by
  have hl := dataLines_nodup s.cfg
  obtain ⟨-, hoe, -⟩ := owns_control h.gpio
  have h4 : GpioLive (Machine.releaseLines (dataLines s.cfg) (Machine.setControl (rsLevel rs) rwRead s)) 0 := by
    refine (h.setControl he (rsLevel rs) rwRead).releaseLines ?_ ?_ <;> rw [setControl_eq]
    exact fun k hk => hk
  have h6 := (h4.delay tSettle).setLine (l := .e) (b := true)
    (by simpa [State.delay_eq, releaseLines_eq _ _ hl, setControl_eq] using hoe)
    ⟨by simp [State.delay_eq, releaseLines_eq _ _ hl, setControl_eq], Nat.le_add_left ..⟩
  have h7 := (h6.delay tPulse).sampleLines (ks := dataLines s.cfg) (r := 0#8)
    (by simp [State.delay_eq, releaseLines_eq _ _ hl, setControl_eq])
    (by simp [State.delay_eq, Latches.latch])
    (by simp [State.delay_eq, releaseLines_eq _ _ hl, setControl_eq, hrw, rwRead, Latches.latch])
    (fun k hk => by
      simpa [State.delay_eq, releaseLines_eq _ _ hl, setControl_eq] using foldl_set_mem hk s.dir Dir.inp)
    (Nat.le_add_left ..)
  have h8 := h7.setLine (l := .e) (b := false)
    (by simpa [sampleLines_eq, State.delay_eq, releaseLines_eq _ _ hl, setControl_eq] using hoe) fun _ => Nat.le_add_left ..
  exact (h8.delay n).weaken (Nat.zero_le _)

end Sys2Proof.Machine

namespace Sys2Proof.Machine

/-! ## Expander transfers before the watcher (R171, R175, R178) -/

theorem expanderBit_false (p : Fin 8) : expanderBit false p = 0#8 := by revert p; decide

/-- The enable bit of an expander byte, taken out in front. -/
theorem expanderByte_eq_enable_or (c : Cfg) (rs rw e : Level) (d : Nibble) :
    expanderByte c rs rw e d = expanderBit e c.map.e ||| expanderByte c rs rw false d := by
  simp only [expanderByte, expanderBit_false, BitVec.or_zero]
  ac_rfl

/-- Setting the enable bit of an expander byte forgets the enable level it had. -/
theorem expanderByte_or_enable (c : Cfg) (rs rw e : Level) (d : Nibble) :
    expanderByte c rs rw e d ||| expanderBit true c.map.e = expanderByte c rs rw true d := by
  have hset : ∀ (b : Level) (p : Fin 8), expanderBit b p ||| expanderBit true p = expanderBit true p := by decide
  rw [expanderByte_eq_enable_or c rs rw e, expanderByte_eq_enable_or c rs rw true, ← hset e c.map.e]
  ac_rfl

theorem sameButEnable_expanderByte (c : Cfg) (rs rw e e' : Level) (d : Nibble) :
    sameButEnable c (expanderByte c rs rw e d) (expanderByte c rs rw e' d) = true := by
  rw [sameButEnable, expanderByte_or_enable, expanderByte_or_enable, decide_eq_true rfl]

/-- What the watcher makes of a full expander byte, where enable only falls from high and where a change of enable changes
nothing else. -/
theorem watchBus_expanderByte {c : Cfg} (hm : c.map.injective = true) {w : Watch} (ho : w.owed = 0) {rs rw e : Level}
    {d : Nibble} (hfall : w.e = true → e = false)
    (hsame : w.e ≠ e → ∃ e', w.byte = some (expanderByte c rs rw e' d)) :
    watchBus c w (.bw c.i2cAddr (expanderByte c rs rw e d)) =
      some { w with rw := rw, e := e, byte := some (expanderByte c rs rw e d)
                    owed := if (w.e && !e) && rw then tI2cRead else 0 } := by
  simp only [watchBus, expanderByte_e hm, expanderByte_rw hm, expanderByte_bl hm]
  refine if_pos ⟨trivial, ho, trivial, fun hw => by simp [hw, hfall hw], fun hchange => ?_⟩
  have hne : w.e ≠ e := by
    rintro rfl
    cases hw : w.e <;> simp [hw] at hchange
  obtain ⟨e', hbyte⟩ := hsame hne
  rw [hbyte, Option.any_some, sameButEnable_expanderByte]

theorem watch_i2cWriteTrace {c : Cfg} (ht : c.transport = .i2c) (hm : c.map.injective = true) {w : Watch}
    (he : w.e = false) (ho : w.owed = 0) (rs : Level) (d : Nibble) :
    watch c w (i2cWriteTrace c rs d) =
      some { w with rw := false, e := false, byte := some (expanderByte c rs false false d), owed := 0 } := by
  rw [i2cWriteTrace, watch_cons, watchEvent_i2c ht, watchBus_expanderByte hm ho (fun _ => rfl) (fun hw => absurd he hw),
    Option.bind_some, watch_cons, watchEvent_i2c ht, watchBus_expanderByte hm (by simp) (by simp) (fun _ => ⟨_, rfl⟩),
    Option.bind_some, watch_cons, watchEvent_i2c ht, watchBus_expanderByte hm (by simp) (by simp) (fun _ => ⟨_, rfl⟩)]
  rfl

theorem watch_i2cReadTrace {c : Cfg} (ht : c.transport = .i2c) (hm : c.map.injective = true) {w : Watch}
    (he : w.e = false) (ho : w.owed = 0) (rs : Level) (v : Byte) :
    watch c w (i2cReadTrace c rs v) =
      some { w with rw := true, e := false, byte := some (expanderByte c rs true false 0xF#4), owed := 0 } := by
  rw [i2cReadTrace, watch_cons, watchEvent_i2c ht, watchBus_expanderByte hm ho (fun _ => rfl) (fun hw => absurd he hw),
    Option.bind_some, watch_cons, watchEvent_i2c ht,
    watchBus_expanderByte hm (by simp [he]) (by simp) (fun _ => ⟨_, rfl⟩), Option.bind_some, watch_cons,
    watchEvent_i2c ht, watchBus, if_pos (by simp), Option.bind_some, watch_cons, watchEvent_i2c ht,
    watchBus_expanderByte hm (by simp) (by simp) (fun _ => ⟨_, rfl⟩), Option.bind_some, watch_cons, watchEvent_i2c ht]
  rfl

/-! ## Between two transfers -/

/-- What the invariant says of the engine's own state and its trace. -/
structure Settled (s : State) : Prop where
  wf        : s.cfg.wf = true
  enableLow : EnableLow s
  recorded  : LinesRecorded s
  wires     : WiresSafe s

theorem EngineInv.settled {s : State} (h : EngineInv s) : Settled s :=
  ⟨h.wf, h.enableLow, ⟨h.latches, h.unowned⟩, h.wires⟩

/-- `Settled` reads the configuration, the latches, the directions and the trace alone. -/
theorem Settled.congr {s t : State} (h : Settled s) (hc : t.cfg = s.cfg) (hx : t.x = s.x) (hd : t.dir = s.dir)
    (ht : t.trace = s.trace) : Settled t := by
  obtain ⟨hwf, he, ⟨hl, hu⟩, hw⟩ := h
  unfold EnableLow at he
  unfold LatchesFollowTrace at hl
  unfold UnownedAtRest at hu
  unfold WiresSafe at hw
  rw [← hc, ← hx] at he
  refine ⟨by rwa [hc], by unfold EnableLow; exact he, ⟨?_, ?_⟩, ?_⟩
  · unfold LatchesFollowTrace; rwa [hc, hx, hd, ht]
  · unfold UnownedAtRest; rwa [hc, hx, hd]
  · unfold WiresSafe; rwa [hc, hx, hd, ht]

theorem Settled.gpioLive {s : State} (h : Settled s) (ht : s.cfg.transport ≠ .i2c) :
    GpioLive s 0 ∧ s.x.e = false := by
  have he := (enableLow_gpio_iff ht).mp h.enableLow
  obtain ⟨w, hw, hwe, howed, hrw, hdir, -⟩ := h.wires
  exact ⟨⟨ht, h.recorded, w, hw, ⟨hwe.trans he.symm, hrw ht, hdir, howed⟩, Nat.zero_le _⟩, he⟩

theorem GpioLive.settled {s : State} {m : Nat} (h : GpioLive s m) (hwf : s.cfg.wf = true) (he : s.x.e = false) :
    Settled s := by
  obtain ⟨w, hw, ha, -⟩ := h.watched
  exact ⟨hwf, (enableLow_gpio_iff h.gpio).mpr he, h.recorded, w, hw, ha.e.trans he, ha.owed, fun _ => ha.rw, ha.dir,
    fun ht => absurd ht h.gpio⟩

theorem Settled.delay {s : State} (h : Settled s) (n : Nat) : Settled (s.delay n) := by
  by_cases ht : s.cfg.transport = .i2c
  · obtain ⟨w, hw, hwe, howed, -, -, hbyte⟩ := h.wires
    have hwires : WiresSafe (s.delay n) := by
      unfold State.delay
      split
      · exact h.wires
      · refine ⟨w, watch_concat hw ((watchEvent_i2c ht ..).trans ?_), hwe, howed, fun hn => absurd ht hn, fun k hk => ?_, hbyte⟩
        · rw [watchBus, howed, Nat.zero_sub, ← howed]
        · simp [dataLines, ht] at hk
    have hdelay := State.delay_eq n s
    refine ⟨by rw [hdelay]; exact h.wf, ?_, h.recorded.delay n, hwires⟩
    have he := h.enableLow
    rw [enableLow_i2c_iff ht] at he
    rw [hdelay]
    exact (enableLow_i2c_iff (by exact ht)).mpr he
  · obtain ⟨hlive, he⟩ := h.gpioLive ht
    have hlive' := hlive.delay n
    rw [State.delay_eq] at hlive' ⊢
    exact hlive'.settled h.wf he

theorem Settled.gpioWrite {s : State} (h : Settled s) (ht : s.cfg.transport ≠ .i2c) (rs : RegisterSelect) (v : Byte)
    (n : Nat) : Settled (gpioWrite (dataLines s.cfg) rs v n s) := by
  obtain ⟨hlive, he⟩ := h.gpioLive ht
  refine (hlive.gpioWrite he rs v n).settled ?_ ?_ <;> rw [gpioWrite_eq _ (dataLines_nodup _)]
  exact h.wf

theorem Settled.gpioRead {s : State} (h : Settled s) (ht : s.cfg.transport ≠ .i2c) (hrw : s.cfg.hasRW = true)
    (rs : RegisterSelect) (n : Nat) : Settled (gpioRead (dataLines s.cfg) rs n s).2 := by
  obtain ⟨hlive, he⟩ := h.gpioLive ht
  refine (hlive.gpioRead he hrw rs n).settled ?_ ?_ <;> rw [gpioRead_eq _ (dataLines_nodup _)]
  exact h.wf

/-- One expander transfer: a trace that the watcher takes from enable low to enable low and leaves at the byte written
last. -/
theorem Settled.i2cTransfer {s t : State} (h : Settled s) (ht : s.cfg.transport = .i2c) (hc : t.cfg = s.cfg)
    (hrecorded : LinesRecorded t) (hlow : EnableLow t) {u : List Event} (hu : t.trace = s.trace ++ u) {rw : Level}
    (hw : ∀ w : Watch, w.e = false → w.owed = 0 → watch s.cfg w u =
      some { w with rw := rw, e := false, byte := some t.x.xreg, owed := 0 }) : Settled t := by
  obtain ⟨w, hwatch, hwe, howed, -⟩ := h.wires
  refine ⟨by rw [hc]; exact h.wf, hlow, hrecorded, { w with rw := rw, e := false, byte := some t.x.xreg, owed := 0 }, ?_, rfl, rfl,
    fun hn => absurd (by rw [hc]; exact ht) hn, fun k hk => ?_, fun _ => rfl⟩
  · rw [hc, hu, watch_append, hwatch, Option.bind_some, hw w hwe howed]
  · simp [dataLines, hc, ht] at hk

theorem Settled.i2cWriteNibble {s : State} (h : Settled s) (ht : s.cfg.transport = .i2c) (rs : RegisterSelect) (d : Nibble)
    (n : Nat) : Settled (i2cWriteNibble rs d n s) := by
  have hm := Cfg.wf_map_injective h.wf ht
  have hrecorded : LinesRecorded (Machine.i2cWriteNibble rs d 0 s) :=
    (((h.recorded.writeXreg ht _).writeXreg ht _).writeXreg ht _).delay 0
  have h0 : Settled (Machine.i2cWriteNibble rs d 0 s) := by
    refine h.i2cTransfer (rw := false) (u := i2cWriteTrace s.cfg (rsLevel rs) d) ht (i2cWriteNibble_cfg ..) hrecorded
      (i2cWriteNibble_enableLow ht hm rs d 0) ?_ ?_
    · rw [i2cWriteNibble_eq, delayTrace_zero, List.append_nil]
    · rw [i2cWriteNibble_eq]
      exact fun w he ho => watch_i2cWriteTrace ht hm he ho _ d
  rw [i2cWriteNibble_delay]
  exact h0.delay n

theorem Settled.i2cReadNibble {s : State} (h : Settled s) (ht : s.cfg.transport = .i2c) (rs : RegisterSelect)
    (n : Nat) : Settled (i2cReadNibble rs n s).2 := by
  have hm := Cfg.wf_map_injective h.wf ht
  have hrecorded : LinesRecorded (Machine.i2cReadNibble rs 0 s).2 :=
    ((((h.recorded.writeXreg ht _).writeXreg ht _).busRead.writeXreg ht _).delay tI2cRead).delay 0
  have h0 : Settled (Machine.i2cReadNibble rs 0 s).2 := by
    refine h.i2cTransfer (rw := true) (u := i2cReadTrace s.cfg (rsLevel rs) (s.answerByte 0)) ht (i2cReadNibble_cfg ..) hrecorded
      (i2cReadNibble_enableLow ht hm rs 0) ?_ ?_
    · rw [i2cReadNibble_eq, delayTrace_zero, List.append_nil]
    · rw [i2cReadNibble_eq]
      exact fun w he ho => watch_i2cReadTrace ht hm he ho _ _
  rw [i2cReadNibble_delay]
  exact h0.delay n

end Sys2Proof.Machine

namespace Sys2Proof.Machine

/-! ## The instruction of a writing operation (R111 to R119) -/

/-- The instruction that a well-formed operation of the encoder issues; none for a read and for INIT. -/
def writeInstruction : Instr → Option Instruction
  | .clear => some encodeClear
  | .home => some encodeHome
  | .entry increment shift => some (encodeEntryMode increment shift)
  | .display on cursorOn blink => some (encodeDisplayControl on cursorOn blink)
  | .shift moveCursor moveRight => some (encodeShift moveCursor moveRight)
  | .funcset eightBit twoLine font5x10 => some (encodeFunctionSet eightBit twoLine font5x10)
  | .setcg addr => (encodeSetCgramAddress addr).toOption
  | .setdd addr => (encodeSetDdramAddress addr).toOption
  | .wrdata v => some (encodeWriteData v)
  | .rddata => none
  | .rdstat => none
  | .init => none

theorem writeInstruction_setcg {a : Int} (h0 : 0 ≤ a) (h : a ≤ 63) :
    writeInstruction (.setcg a) = some ⟨opSetcg a, .command, .instr⟩ := by
  rw [writeInstruction, encodeSetCgramAddress_ok h0 h, Except.toOption]

theorem writeInstruction_setdd {a : Int} (h0 : 0 ≤ a) (h : a ≤ 127) :
    writeInstruction (.setdd a) = some ⟨opSetdd a, .command, .instr⟩ := by
  rw [writeInstruction, encodeSetDdramAddress_ok h0 h, Except.toOption]

/-- The error an operation raises on an adapter (R251, R252). -/
def operationError (c : Cfg) : Instr → Option Fault
  | .setcg addr => if addr < 0 ∨ 63 < addr then some (.addressOutOfRange .cgram addr) else none
  | .setdd addr => if addr < 0 ∨ 127 < addr then some (.addressOutOfRange .ddram addr) else none
  | .rddata => readError c
  | .rdstat => readError c
  | _ => none

/-- An operation raises, or issues its instruction, or reads an adapter that can read, or is the power-up sequence. -/
theorem operation_cases (c : Cfg) (i : Instr) :
    (∃ f, operationError c i = some f) ∨
    (operationError c i = none ∧ i.isRead = false ∧ ∃ e, writeInstruction i = some e) ∨
    (operationError c i = none ∧ i.isRead = true ∧ c.canRead = true) ∨
    (operationError c i = none ∧ i = .init) := by
  have hread : (∃ f, readError c = some f) ∨ readError c = none ∧ c.canRead = true := by
    cases he : readError c with
    | some f => exact .inl ⟨f, rfl⟩
    | none => exact .inr ⟨rfl, (readError_none_iff c).mp he⟩
  cases i with
  | setcg a =>
    by_cases h : a < 0 ∨ 63 < a
    · exact .inl ⟨_, if_pos h⟩
    · exact .inr (.inl ⟨if_neg h, rfl, _, writeInstruction_setcg (by omega) (by omega)⟩)
  | setdd a =>
    by_cases h : a < 0 ∨ 127 < a
    · exact .inl ⟨_, if_pos h⟩
    · exact .inr (.inl ⟨if_neg h, rfl, _, writeInstruction_setdd (by omega) (by omega)⟩)
  | rddata => exact hread.imp id fun ⟨he, hr⟩ => .inr (.inl ⟨he, rfl, hr⟩)
  | rdstat => exact hread.imp id fun ⟨he, hr⟩ => .inr (.inl ⟨he, rfl, hr⟩)
  | init => exact .inr (.inr (.inr ⟨rfl, rfl⟩))
  | _ => exact .inr (.inl ⟨rfl, rfl, _, rfl⟩)

theorem opBody_of_error {s : State} {i : Instr} {f : Fault} (h : operationError s.cfg i = some f) :
    opBody i s = s.raise f := by
  cases i with
  | setcg a =>
    obtain ⟨ha, hf⟩ := Option.ite_none_right_eq_some.mp h
    rw [opBody, encodeSetCgramAddress_error ha, issueOrRaise, Option.some.inj hf]
  | setdd a =>
    obtain ⟨ha, hf⟩ := Option.ite_none_right_eq_some.mp h
    rw [opBody, encodeSetDdramAddress_error ha, issueOrRaise, Option.some.inj hf]
  | rddata => exact fetch_error h ..
  | rdstat => exact fetch_error h .command .poll fun b => .status (decodeStatus b)
  | _ => cases h

theorem issueOrRaise_of_ok {r : Except Fault Instruction} {e : Instruction} (h : r.toOption = some e) :
    issueOrRaise r = issue e := by
  cases r with
  | ok e' => cases h; rfl
  | error f => cases h

theorem opBody_of_instruction {i : Instr} {e : Instruction} (h : writeInstruction i = some e) : opBody i = issue e := by
  cases i with
  | setcg a => exact issueOrRaise_of_ok h
  | setdd a => exact issueOrRaise_of_ok h
  | rddata => cases h
  | rdstat => cases h
  | init => cases h
  | _ => exact congrArg issue (Option.some.inj h)

/-- A read of an adapter that can read: the port, the class and the value are the operation's own. -/
theorem opBody_of_read {i : Instr} (h : i.isRead = true) :
    ∃ rs cls ret, opBody i = fetch rs cls ret ∧ rsLevel rs = decide (i = .rddata) := by
  cases i with
  | rddata => exact ⟨.data, .instr, .byte, rfl, rfl⟩
  | rdstat => exact ⟨.command, .poll, fun b => .status (decodeStatus b), rfl, rfl⟩
  | _ => cases h

/-- All that the body of an operation can do: raise, issue an instruction, fetch a byte, or the power-up sequence. -/
theorem opBody_cases (i : Instr) (s : State) :
    (∃ f, opBody i s = s.raise f) ∨
    (i.isRead = false ∧ ∃ e : Instruction, opBody i s = issue e s) ∨
    (i.isRead = true ∧ s.cfg.canRead = true ∧ ∃ rs cls v, opBody i s = complete cls v (readByteBody rs 0 s).2) ∨
    (i = .init ∧ opBody i s = (initManually s).finish .absent) := by
  obtain ⟨f, he⟩ | ⟨-, hw, e, he⟩ | ⟨-, hi, hr⟩ | ⟨-, rfl⟩ := operation_cases s.cfg i
  · exact .inl ⟨f, opBody_of_error he⟩
  · exact .inr (.inl ⟨hw, e, by rw [opBody_of_instruction he]⟩)
  · obtain ⟨rs, cls, ret, hb, -⟩ := opBody_of_read hi
    exact .inr (.inr (.inl ⟨hi, hr, rs, cls, _, by rw [hb, fetch_ok hr]⟩))
  · exact .inr (.inr (.inr ⟨rfl, rfl⟩))

/-! ## Every operation leaves a settled engine settled -/

theorem Settled.gpio4WriteNibble {s : State} (h : Settled s) (ht : s.cfg.transport = .gpio4) (rs : RegisterSelect)
    (d : Nibble) (n : Nat) : Settled (gpio4WriteNibble rs d n s) := by
  have hw := h.gpioWrite (by simp [ht]) rs (onHighLines d) n
  rwa [dataLines_gpio4 ht] at hw

theorem Settled.gpio8WriteByte {s : State} (h : Settled s) (ht : s.cfg.transport = .gpio8) (rs : RegisterSelect)
    (v : Byte) (n : Nat) : Settled (gpio8WriteByte rs v n s) := by
  have hw := h.gpioWrite (by simp [ht]) rs v n
  rwa [dataLines_gpio8 ht] at hw

theorem Settled.gpio4ReadNibble {s : State} (h : Settled s) (ht : s.cfg.transport = .gpio4) (hr : s.cfg.canRead = true)
    (rs : RegisterSelect) (n : Nat) : Settled (gpio4ReadNibble rs n s).2 := by
  have hg : s.cfg.transport ≠ .i2c := by simp [ht]
  have hw := h.gpioRead hg (Cfg.canRead_hasRW hr hg) rs n
  rwa [dataLines_gpio4 ht] at hw

theorem Settled.writeByte {s : State} (h : Settled s) (rs : RegisterSelect) (v : Byte) (n : Nat) :
    Settled (writeByte rs v n s) := by
  unfold Machine.writeByte
  split
  · next ht => exact (h.gpio4WriteNibble ht rs _ 0).gpio4WriteNibble (by rwa [gpio4WriteNibble_cfg]) rs _ n
  · next ht => exact h.gpio8WriteByte ht rs v n
  · next ht => exact (h.i2cWriteNibble ht rs _ 0).i2cWriteNibble (by rwa [i2cWriteNibble_cfg]) rs _ n

theorem Settled.readByte {s : State} (h : Settled s) (hr : s.cfg.canRead = true) (rs : RegisterSelect) (n : Nat) :
    Settled (readByteBody rs n s).2 := by
  unfold readByteBody
  split
  · next ht =>
    exact (h.gpio4ReadNibble ht hr rs 0).gpio4ReadNibble (by rwa [gpio4ReadNibble_cfg]) (by rwa [gpio4ReadNibble_cfg]) rs n
  · next ht =>
    have hg : s.cfg.transport ≠ .i2c := by simp [ht]
    have hw := h.gpioRead hg (Cfg.canRead_hasRW hr hg) rs n
    rwa [dataLines_gpio8 ht] at hw
  · next ht => exact (h.i2cReadNibble ht rs 0).i2cReadNibble (by rwa [i2cReadNibble_cfg]) rs n

/-- Four writes after a delay, the shape of the power-up sequence on every path (R241, R242, R243). -/
theorem Settled.fourWrites {α : Type} {tr : Transport} {wr : RegisterSelect → α → Nat → State → State}
    (hwr : ∀ {s : State}, Settled s → s.cfg.transport = tr → ∀ rs d n, Settled (wr rs d n s))
    (hcfg : ∀ rs d n s, (wr rs d n s).cfg = s.cfg) {s : State} (h : Settled s) (ht : s.cfg.transport = tr)
    (d₁ d₂ d₃ d₄ : α) (n₀ n₁ n₂ n₃ n₄ : Nat) :
    Settled (wr .command d₄ n₄ (wr .command d₃ n₃ (wr .command d₂ n₂ (wr .command d₁ n₁ (s.delay n₀))))) := by
  have ht₀ : (s.delay n₀).cfg.transport = tr := by rwa [State.delay_eq]
  have h₁ := hwr (h.delay n₀) ht₀ .command d₁ n₁
  have h₂ := hwr h₁ (by rwa [hcfg]) .command d₂ n₂
  have h₃ := hwr h₂ (by rwa [hcfg, hcfg]) .command d₃ n₃
  exact hwr h₃ (by rwa [hcfg, hcfg, hcfg]) .command d₄ n₄

theorem gpio8WriteByte_cfg (rs : RegisterSelect) (v : Byte) (n : Nat) (s : State) :
    (gpio8WriteByte rs v n s).cfg = s.cfg := by
  rw [gpio8WriteByte, gpioWrite_gpio8]

theorem Settled.initManually {s : State} (h : Settled s) : Settled (initManually s) := by
  unfold Machine.initManually
  split
  · next ht => exact Settled.fourWrites Settled.gpio4WriteNibble gpio4WriteNibble_cfg h ht ..
  · next ht => exact Settled.fourWrites Settled.gpio8WriteByte gpio8WriteByte_cfg h ht ..
  · next ht => exact Settled.fourWrites Settled.i2cWriteNibble i2cWriteNibble_cfg h ht ..

theorem Settled.complete {s : State} (h : Settled s) (cls : DelayClass) (v : Value) : Settled (complete cls v s) := by
  obtain ⟨-, hc⟩ | ⟨-, -, hc⟩ | ⟨-, -, hc⟩ | ⟨-, hc⟩ := complete_cases cls v s <;> rw [hc]
  · exact (h.delay 1520).congr rfl rfl rfl rfl
  · exact (h.delay s.cfg.tInstr).congr rfl rfl rfl rfl
  · exact h.congr rfl rfl rfl rfl
  · exact h.congr rfl rfl rfl rfl

theorem Settled.opBody {s : State} (h : Settled s) (i : Instr) : Settled (opBody i s) := by
  obtain ⟨f, hb⟩ | ⟨-, e, hb⟩ | ⟨-, hr, rs, cls, v, hb⟩ | ⟨-, hb⟩ := opBody_cases i s <;> rw [hb]
  · exact h.congr rfl rfl rfl rfl
  · exact (h.writeByte _ _ 0).complete _ _
  · exact (h.readByte hr rs 0).complete cls v
  · exact h.initManually.congr rfl rfl rfl rfl

/-! ## In flight only in `POLL` mode -/

/-- What is in flight is in its poll loop (R196). -/
def InFlightOnlyInPoll (s : State) : Prop := s.inFlight.isSome = true → s.cfg.waitMode = .poll

theorem complete_inFlightOnlyInPoll (cls : DelayClass) (v : Value) (s : State) :
    InFlightOnlyInPoll (complete cls v s) := by
  obtain ⟨-, hc⟩ | ⟨-, -, hc⟩ | ⟨-, hm, hc⟩ | ⟨-, hc⟩ := complete_cases cls v s <;> rw [hc]
  · exact fun hs => by cases hs
  · exact fun hs => by cases hs
  · exact fun _ => hm
  · exact fun hs => by cases hs

theorem opBody_inFlightOnlyInPoll {s : State} (h : InFlightOnlyInPoll s) (i : Instr) :
    InFlightOnlyInPoll (opBody i s) := by
  obtain ⟨f, hb⟩ | ⟨-, e, hb⟩ | ⟨-, -, rs, cls, v, hb⟩ | ⟨-, hb⟩ := opBody_cases i s <;> rw [hb]
  · exact h
  · exact complete_inFlightOnlyInPoll _ _ _
  · exact complete_inFlightOnlyInPoll cls v _
  · exact fun hs => by cases hs

/-! ## A step keeps the invariant -/

theorem EngineInv.of_settled {s : State} (h : Settled s) (hf : InFlightOnlyInPoll s) (ho : s.opStart ≤ s.trace.length) :
    EngineInv s :=
  ⟨h.wf, h.enableLow, h.recorded.latches, h.recorded.unowned, h.wires, hf, ho⟩

theorem EngineInv.pollOnce {s t : State} {v : Value} (h : EngineInv s) (hp : pollOnce v s = .next t) : EngineInv t := by
  obtain ⟨hcfg, hstart, u, hu, -⟩ := pollOnce_transferred hp
  have ho : t.opStart ≤ t.trace.length := by
    rw [hstart, hu, List.length_append]
    exact h.opStart.trans (Nat.le_add_right ..)
  have hread := fun hr => h.settled.readByte hr .command 0
  obtain ⟨hr, -, hp'⟩ | ⟨hr, -, hp'⟩ | ⟨-, hp'⟩ := pollOnce_cases v s <;> cases hp'.symm.trans hp
  · obtain ⟨tr, x, dir, ls, bs, k, hf⟩ := readByteBody_frame .command 0 s
    exact .of_settled (hread hr) (by rw [hf]; exact h.inFlight) ho
  · exact .of_settled ((hread hr).congr rfl rfl rfl rfl) (fun hs => by cases hs) ho

/-- An operation keeps the configuration and where its own trace starts, and adds to the trace. -/
theorem opBody_grows (i : Instr) (s : State) :
    (opBody i s).cfg = s.cfg ∧ (opBody i s).opStart = s.opStart ∧ ∃ u, (opBody i s).trace = s.trace ++ u := by
  have hgrow : ∀ {level : Level} {t : State}, Transferred level s t →
      t.cfg = s.cfg ∧ t.opStart = s.opStart ∧ ∃ u, t.trace = s.trace ++ u :=
    fun ⟨hc, ho, u, hu, _⟩ => ⟨hc, ho, u, hu⟩
  obtain ⟨f, hb⟩ | ⟨-, e, hb⟩ | ⟨-, hr, rs, cls, v, hb⟩ | ⟨-, hb⟩ := opBody_cases i s <;> rw [hb]
  · exact ⟨rfl, rfl, [], by simp⟩
  · exact hgrow (issue_transferred e s)
  · exact hgrow ((readByte_transferred hr rs 0).complete cls v)
  · exact hgrow ((initManually_transferred s).finish .absent)

theorem EngineInv.exec {s t : State} {i : Instr} (h : EngineInv s) (he : exec i s = .next t) : EngineInv t := by
  obtain ⟨-, rfl⟩ := exec_next he
  have hbegin : Settled s.begin := h.settled.congr rfl rfl rfl rfl
  obtain ⟨-, ho, u, hu⟩ := opBody_grows i s.begin
  refine .of_settled (hbegin.opBody i) (opBody_inFlightOnlyInPoll (by exact h.inFlight) i) ?_
  rw [ho, hu, List.length_append]
  exact Nat.le_add_right ..

/-- The invariant says nothing of the calls to come. -/
theorem EngineInv.withCalls {s : State} (h : EngineInv s) (cs : List Call) : EngineInv { s with calls := cs } :=
  .of_settled (h.settled.congr rfl rfl rfl rfl) h.inFlight h.opStart

/-- Settles O53: a poll iteration and an operation are transfers and delays, each of which the watcher takes from enable
low to enable low with the state's record in step. -/
theorem everyStepKeepsInvariant : Obligations.EveryStepKeepsInvariant := by
  intro s t h hstep
  obtain ⟨v, -, hp⟩ | ⟨-, -, rfl⟩ | ⟨c, rest, i, -, -, -, he⟩ := step_next hstep
  · exact h.pollOnce hp
  · exact h
  · exact (h.withCalls rest).exec he

end Sys2Proof.Machine

namespace Sys2Proof.Machine

/-! ## Construction in closed form (R36, R281) -/

/-- The trace of a GPIO construction: E, RS, RW where owned, and the data lines, each made an output and set low. -/
def gpioConstructionTrace (lines : List (Fin 8)) (hasRW : Bool) : List Event :=
  [Event.initOut .e, Event.set .e false, Event.initOut .rs, Event.set .rs false] ++
    (if hasRW then [Event.initOut .rw, Event.set .rw false] else []) ++
    lines.flatMap fun k => [Event.initOut (.db k), Event.set (.db k) false]

/-- Step 4 of the construction trace drives each line and sets it low, which is how it was before. -/
theorem constructData_eq (ks : List (Fin 8)) {s : State} (hdb : s.x.db = Vector.replicate 8 false)
    (hdir : s.dir = Vector.replicate 8 .out) :
    constructData ks s =
      { s with trace := s.trace ++ ks.flatMap fun k => [Event.initOut (.db k), Event.set (.db k) false] } := by
  have hset : ∀ {α : Type} (k : Fin 8) (a : α), (Vector.replicate 8 a).set k a = Vector.replicate 8 a := fun k a =>
    lines_ext fun j => by simp
  induction ks generalizing s with
  | nil => simp [constructData]
  | cons k ks ih =>
    have hkept : (s.turnOut k).setLine (.db k) false =
        { s with trace := s.trace ++ [.initOut (.db k)] ++ [.set (.db k) false] } := by
      simp only [State.setLine, State.turnOut, Latches.latch, hdb, hdir, hset]
      rw [← hdb, ← hdir]
    rw [constructData, hkept, ih (by exact hdb) (by exact hdir)]
    simp

theorem constructGpio_eq (lines : List (Fin 8)) (c : Cfg) :
    constructGpio lines (notConstructed c) =
      { notConstructed c with trace := gpioConstructionTrace lines c.hasRW } := by
  have hcontrol : (if c.hasRW then constructControl .rw (constructControl .rs (constructControl .e (notConstructed c)))
        else constructControl .rs (constructControl .e (notConstructed c))) =
      { notConstructed c with trace := [Event.initOut .e, Event.set .e false, Event.initOut .rs, Event.set .rs false] ++
          (if c.hasRW then [Event.initOut .rw, Event.set .rw false] else []) } := by
    cases c.hasRW <;> rfl
  refine (congrArg (constructData lines) hcontrol).trans ?_
  rw [constructData_eq] <;> rfl

/-- The engine that a well-formed configuration gives. -/
def constructed (c : Cfg) : State :=
  { constructLines (notConstructed c) with opStart := (constructLines (notConstructed c)).trace.length }

theorem construct_wf {c : Cfg} (h : c.wf = true) : construct c = .next (constructed c) := if_pos h

theorem construct_illFormed {c : Cfg} (h : c.wf = false) : construct c = .refused .illFormedConfiguration := by
  simp [construct, h]

theorem construct_next {c : Cfg} {t : State} (h : construct c = .next t) : c.wf = true ∧ t = constructed c := by
  cases hwf : c.wf with
  | true => exact ⟨rfl, Host.Outcome.next.inj (h.symm.trans (construct_wf hwf))⟩
  | false => cases (construct_illFormed hwf).symm.trans h

/-- A constructed GPIO engine: before construction but for its trace. -/
theorem constructed_gpio {c : Cfg} (h : c.transport ≠ .i2c) :
    constructed c = { notConstructed c with trace := gpioConstructionTrace (dataLines c) c.hasRW
                                            opStart := (gpioConstructionTrace (dataLines c) c.hasRW).length } := by
  have hlines : constructLines (notConstructed c) = constructGpio (dataLines c) (notConstructed c) := by
    cases ht : c.transport with
    | gpio4 => rw [constructLines, dataLines_gpio4 ht]; simp only [notConstructed, ht]
    | gpio8 => rw [constructLines, dataLines_gpio8 ht]; simp only [notConstructed, ht]
    | i2c => exact absurd ht h
  rw [constructed, hlines, constructGpio_eq]

/-- A constructed I2C engine: before construction but for its trace and the byte written. -/
theorem constructed_i2c {c : Cfg} (h : c.transport = .i2c) :
    constructed c = { notConstructed c with
      trace := [.bw c.i2cAddr (expanderByte c false false false 0x0#4)], opStart := 1
      x := { (notConstructed c).x with xreg := expanderByte c false false false 0x0#4 } } := by
  have hlines : constructLines (notConstructed c) =
      (notConstructed c).writeXreg (expanderByte c false false false 0x0#4) := by
    rw [constructLines, show (notConstructed c).cfg = c from rfl, h]
  rw [constructed, hlines]
  rfl

/-- Settles O50: the closed form of construction on each transport. -/
theorem constructionState : Obligations.ConstructionState := by
  refine fun c => ⟨construct_illFormed, fun h => ⟨_, construct_wf h, ?_⟩⟩
  cases ht : c.transport with
  | gpio4 =>
    rw [constructed_gpio (by simp [ht]), dataLines_gpio4 ht]
    exact ⟨rfl, rfl, rfl, rfl, rfl, rfl, rfl, rfl, rfl, by simp [gpioConstructionTrace, gpio4Lines], rfl⟩
  | gpio8 =>
    rw [constructed_gpio (by simp [ht]), dataLines_gpio8 ht]
    exact ⟨rfl, rfl, rfl, rfl, rfl, rfl, rfl, rfl, rfl, by simp [gpioConstructionTrace, gpio8Lines], rfl⟩
  | i2c =>
    rw [constructed_i2c ht]
    exact ⟨rfl, rfl, rfl, rfl, rfl, rfl, rfl, rfl, rfl, rfl, rfl⟩

/-! ## Construction establishes the invariant -/

theorem level_of_low {x : Latches} (hrs : x.rs = false) (hrw : x.rw = false) (he : x.e = false)
    (hdb : x.db = Vector.replicate 8 false) (l : Line) : x.level l = false := by
  cases l with
  | rs => exact hrs
  | rw => exact hrw
  | e => exact he
  | db k => simp [Latches.level, hdb]

theorem gpioConstructionTrace_last (hasRW : Bool) :
    (∀ lines ∈ [gpio4Lines, gpio8Lines], lastSet .rs (gpioConstructionTrace lines hasRW) = some false ∧
      lastSet .e (gpioConstructionTrace lines hasRW) = some false ∧
      (hasRW = true → lastSet .rw (gpioConstructionTrace lines hasRW) = some false) ∧
      ∀ k ∈ lines, lastSet (.db k) (gpioConstructionTrace lines hasRW) = some false ∧
        lastDir (.db k) (gpioConstructionTrace lines hasRW) = some .out) := by
  cases hasRW <;> decide

/-- What the watcher has after a GPIO construction: every owned data line driven, everything low. -/
def watchConstructed (c : Cfg) : Watch :=
  { Watch.start with dir := (dataLines c).foldl (fun d (k : Fin 8) => d.set k .out) Watch.start.dir }

theorem watch_gpioConstructionTrace {c : Cfg} (h : c.transport ≠ .i2c) :
    watch c .start (gpioConstructionTrace (dataLines c) c.hasRW) = some (watchConstructed c) := by
  obtain ⟨tr, hasRW, readable, tInstr, addr, map, backlight, mode⟩ := c
  cases tr with
  | gpio4 => cases hasRW <;> rfl
  | gpio8 => cases hasRW <;> rfl
  | i2c => exact absurd rfl h

theorem constructed_gpio_inv {c : Cfg} (hwf : c.wf = true) (h : c.transport ≠ .i2c) : EngineInv (constructed c) := by
  rw [constructed_gpio h]
  have hmem : dataLines c ∈ [gpio4Lines, gpio8Lines] := by
    cases ht : c.transport with
    | gpio4 => simp [dataLines_gpio4 ht]
    | gpio8 => simp [dataLines_gpio8 ht]
    | i2c => exact absurd ht h
  obtain ⟨hrs, he, hrw, hdb⟩ := gpioConstructionTrace_last c.hasRW (dataLines c) hmem
  obtain ⟨-, -, horw⟩ := owns_control h
  have hlow : ∀ l, (notConstructed c).x.level l = false := level_of_low rfl rfl rfl rfl
  have hout : ∀ k : Fin 8, (notConstructed c).dir[k] = .out := fun k => Vector.getElem_replicate _
  refine ⟨hwf, (enableLow_gpio_iff (by exact h)).mpr rfl, ⟨fun l hl => ?_, fun k hk => ?_, fun ht => absurd ht h⟩,
    ⟨fun l _ => hlow l, fun k _ => hout k, fun _ => rfl⟩,
    ⟨watchConstructed c, watch_gpioConstructionTrace h, rfl, rfl, fun _ => (Bool.and_false _).symm, fun k hk => ?_,
      fun ht => absurd ht h⟩, fun hs => (by cases hs), le_refl _⟩
  · refine Eq.trans ?_ (congrArg some (hlow l).symm)
    cases l with
    | rs => exact hrs
    | rw => exact hrw (horw.symm.trans hl)
    | e => exact he
    | db k => exact (hdb k (owns_db.mp hl)).1
  · exact (hdb k hk).2.trans (congrArg some (hout k).symm)
  · exact (foldl_set_mem hk _ _).trans (hout k).symm

theorem constructed_i2c_inv {c : Cfg} (hwf : c.wf = true) (h : c.transport = .i2c) : EngineInv (constructed c) := by
  rw [constructed_i2c h]
  have hm := Cfg.wf_map_injective hwf h
  have hnone : ∀ l, owns c l = false := fun l => by cases l <;> simp [owns, dataLines, h]
  have hlow : ∀ l, (notConstructed c).x.level l = false := level_of_low rfl rfl rfl rfl
  refine ⟨hwf, (enableLow_i2c_iff (by exact h)).mpr (expanderByte_e hm ..),
    ⟨fun l hl => ?_, fun k hk => ?_, fun _ => lastBusWrite_bw [] ..⟩,
    ⟨fun l _ => ?_, fun k _ => Vector.getElem_replicate _, fun ht => absurd h ht⟩,
    ⟨{ Watch.start with byte := some (expanderByte c false false false 0x0#4) }, ?_, rfl, rfl, fun ht => absurd h ht,
      fun k hk => ?_, fun _ => rfl⟩, fun hs => (by cases hs), le_refl _⟩
  · cases (hnone l).symm.trans hl
  · exact absurd hk (of_decide_eq_false (hnone (.db k)))
  · exact (by cases l <;> rfl : _ = (notConstructed c).x.level l).trans (hlow l)
  · have hbyte := watchBus_expanderByte hm (w := .start) (rs := false) (rw := false) (e := false) (d := 0x0#4) rfl
      (fun hw => by cases hw) (fun hw => absurd rfl hw)
    exact watch_concat (t := []) rfl ((watchEvent_i2c h ..).trans hbyte)
  · exact absurd hk (of_decide_eq_false (hnone (.db k)))

/-- Settles O52: the invariant read off the closed form of each construction. -/
theorem constructionEstablishesInvariant : Obligations.ConstructionEstablishesInvariant := by
  intro c t h
  obtain ⟨hwf, rfl⟩ := construct_next h
  by_cases ht : c.transport = .i2c
  · exact constructed_i2c_inv hwf ht
  · exact constructed_gpio_inv hwf ht

/-- Settles O51: the reset state is the constructed one of the initial configuration. -/
theorem resetIsConstructedAndSafe : Obligations.ResetIsConstructedAndSafe := by
  have hreset : construct Cfg.initial = .next State.reset :=
    (construct_wf (by decide)).trans (congrArg _ (constructed_gpio (by decide)))
  exact ⟨hreset, constructionEstablishesInvariant _ _ hreset⟩

end Sys2Proof.Machine

namespace Sys2Proof.Machine

/-! ## Which operation raises what -/

theorem complete_no_error {s : State} (h : s.outcome = none) (cls : DelayClass) (v : Value) (f : Fault) :
    (complete cls v s).outcome ≠ some (.error f) := by
  obtain ⟨-, hc⟩ | ⟨-, -, hc⟩ | ⟨-, -, hc⟩ | ⟨-, hc⟩ := complete_cases cls v s <;> rw [hc]
  · simp
  · simp
  · simp [h]
  · simp

theorem opBody_no_error {s : State} {i : Instr} (h : operationError s.cfg i = none) (ho : s.outcome = none) (f : Fault) :
    (opBody i s).outcome ≠ some (.error f) := by
  obtain ⟨f', he⟩ | ⟨-, -, e, hi⟩ | ⟨-, hi, hr⟩ | ⟨-, rfl⟩ := operation_cases s.cfg i
  · cases h.symm.trans he
  · rw [opBody_of_instruction hi, issue, writeByte_eq]
    exact complete_no_error (by exact ho) _ _ f
  · obtain ⟨rs, cls, ret, hb, -⟩ := opBody_of_read hi
    rw [hb, fetch_ok hr, readByteBody_eq hr]
    exact complete_no_error (by exact ho) _ _ f
  · simp [opBody]

/-- An operation's outcome is an error exactly where the taxonomy says so. -/
theorem opBody_outcome_error_iff {s : State} (ho : s.outcome = none) (i : Instr) (f : Fault) :
    (opBody i s).outcome = some (.error f) ↔ operationError s.cfg i = some f := by
  cases he : operationError s.cfg i with
  | none => exact ⟨fun h => absurd h (opBody_no_error he ho f), fun h => by cases h⟩
  | some f' => rw [opBody_of_error he, State.raise_outcome]; simp

/-- An operation that raises does nothing but raise. -/
theorem exec_error {i : Instr} {s t : State} {f : Fault} (h : exec i s = .next t) (he : t.outcome = some (.error f)) :
    s.inFlight = none ∧ operationError s.cfg i = some f ∧ t = s.begin.raise f := by
  obtain ⟨hs, rfl⟩ := exec_next h
  have hf : operationError s.begin.cfg i = some f := (opBody_outcome_error_iff rfl i f).mp he
  exact ⟨hs, hf, opBody_of_error hf⟩

/-- Settles O39: raising changes the outcome and the sticky mark alone. -/
theorem errorsLeaveNothingBehind : Obligations.ErrorsLeaveNothingBehind := by
  intro i s t f h he
  obtain ⟨hs, -, rfl⟩ := exec_error h he
  exact ⟨rfl, rfl, rfl, rfl, List.drop_length, hs, rfl, rfl, rfl, rfl⟩

theorem readError_eq_some_iff (c : Cfg) (f : Fault) : readError c = some f ↔
    (c.transport ≠ .i2c ∧ c.hasRW = false ∧ f = .readOnWriteOnlyWiring) ∨
    (c.transport = .i2c ∧ c.i2cReadable = false ∧ f = .readOnWriteOnlyExpander) := by
  rw [eq_comm (a := readError c)]
  cases ht : c.transport with
  | gpio4 => cases hc : c.hasRW <;> simp [readError, ht, hc]
  | gpio8 => cases hc : c.hasRW <;> simp [readError, ht, hc]
  | i2c => cases hc : c.i2cReadable <;> simp [readError, ht, hc]

/-- Settles O40: the four cases are those in which the operation's own check finds an error. -/
theorem whichOperationRaisesWhat : Obligations.WhichOperationRaisesWhat := by
  intro i s t f h
  obtain ⟨-, rfl⟩ := exec_next h
  rw [opBody_outcome_error_iff rfl, State.begin_cfg]
  cases i with
  | setcg a => simp [operationError, Instr.isRead, eq_comm (b := f)]
  | setdd a => simp [operationError, Instr.isRead, eq_comm (b := f)]
  | rddata => simp [operationError, Instr.isRead, readError_eq_some_iff]
  | rdstat => simp [operationError, Instr.isRead, readError_eq_some_iff]
  | _ => simp [operationError, Instr.isRead]

end Sys2Proof.Machine

namespace Sys2Proof.Machine

/-! ## What the engine does not look at -/

/-- `s` with another sticky mark and other answers of the environment. -/
def State.withOutside (m : Option Fault) (ls : List Level) (bs : List Byte) (n : Nat) (s : State) : State :=
  { s with firstError := m, levels := ls, bytes := bs, draws := n }

section
variable (m : Option Fault) (ls : List Level) (bs : List Byte) (n : Nat) (s : State)

theorem complete_withOutside (cls : DelayClass) (v : Value) :
    complete cls v (s.withOutside m ls bs n) = (complete cls v s).withOutside m ls bs n := by
  have hdelay : ∀ k, (s.withOutside m ls bs n).delay k = (s.delay k).withOutside m ls bs n := fun k => by
    rw [State.delay_eq, State.delay_eq]
    rfl
  cases cls with
  | clearHome => rw [complete, hdelay]; rfl
  | instr =>
    cases hm : s.cfg.waitMode with
    | fixed => simp only [complete, show (s.withOutside m ls bs n).cfg = s.cfg from rfl, hm, hdelay]; rfl
    | poll => simp only [complete, show (s.withOutside m ls bs n).cfg = s.cfg from rfl, hm]; rfl
  | poll => rfl

theorem issue_withOutside (e : Instruction) :
    issue e (s.withOutside m ls bs n) = (issue e s).withOutside m ls bs n := by
  rw [issue, issue, writeByte_eq, writeByte_eq, ← complete_withOutside]
  rfl

theorem initManually_withOutside :
    initManually (s.withOutside m ls bs n) = (initManually s).withOutside m ls bs n := by
  cases ht : s.cfg.transport with
  | gpio4 =>
    simp only [initManually, show (s.withOutside m ls bs n).cfg = s.cfg from rfl, ht, initNibbles, State.delay_eq,
      gpio4WriteNibble_eq]
    rfl
  | gpio8 =>
    simp only [initManually, show (s.withOutside m ls bs n).cfg = s.cfg from rfl, ht, initBytes, gpio8WriteByte,
      State.delay_eq, gpioWrite_gpio8]
    rfl
  | i2c =>
    simp only [initManually, show (s.withOutside m ls bs n).cfg = s.cfg from rfl, ht, initNibbles, State.delay_eq,
      i2cWriteNibble_eq]
    rfl

end

/-- A write that does not raise looks at neither the mark nor the answers, and leaves both. -/
theorem opBody_write_withOutside {s : State} {i : Instr} (he : operationError s.cfg i = none) (hi : i.isRead = false)
    (m : Option Fault) (ls : List Level) (bs : List Byte) (n : Nat) :
    opBody i (s.withOutside m ls bs n) = (opBody i s).withOutside m ls bs n := by
  obtain ⟨f, hf⟩ | ⟨-, -, e, hw⟩ | ⟨-, hr, -⟩ | ⟨-, rfl⟩ := operation_cases s.cfg i
  · cases he.symm.trans hf
  · rw [opBody_of_instruction hw, issue_withOutside]
  · cases hi.symm.trans hr
  · exact congrArg (State.finish .absent) (initManually_withOutside m ls bs n s)

/-- ... so it leaves its own. -/
theorem opBody_write_outside {s : State} {i : Instr} (he : operationError s.cfg i = none) (hi : i.isRead = false) :
    (opBody i s).firstError = s.firstError ∧ (opBody i s).levels = s.levels ∧ (opBody i s).bytes = s.bytes ∧
      (opBody i s).draws = s.draws := by
  have hown : opBody i s = (opBody i s).withOutside s.firstError s.levels s.bytes s.draws :=
    opBody_write_withOutside he hi s.firstError s.levels s.bytes s.draws
  rw [hown]
  exact ⟨rfl, rfl, rfl, rfl⟩

/-- Settles O49: a write that raises does nothing else, and another write is blind to the answers. -/
theorem writesDoNotDependOnAnswers : Obligations.WritesDoNotDependOnAnswers := by
  intro i s t ls bs n hi h
  obtain ⟨hs, rfl⟩ := exec_next h
  have hfixed : s.cfg.waitMode = .fixed → (opBody i s.begin).inFlight = none := by
    intro hm
    have hpoll := opBody_inFlightOnlyInPoll (s := s.begin) (fun hsome => by simp [hs] at hsome) i
    obtain ⟨hc, -⟩ := opBody_grows i s.begin
    cases hf : (opBody i s.begin).inFlight with
    | none => rfl
    | some v => simp [InFlightOnlyInPoll, hf, hc, hm] at hpoll
  rw [exec_idle (by exact hs)]
  cases he : operationError s.begin.cfg i with
  | some f =>
    rw [opBody_of_error he] at hfixed ⊢
    rw [opBody_of_error (by exact he)]
    exact ⟨rfl, rfl, rfl, rfl, hfixed⟩
  | none =>
    obtain ⟨hmark, hl, hb, hd⟩ := opBody_write_outside he hi
    refine ⟨congrArg _ ?_, hl, hb, hd, hfixed⟩
    exact (opBody_write_withOutside he hi s.firstError ls bs n).trans (by rw [← State.begin_firstError, ← hmark]; rfl)

/-! ## After an error -/

/-- `s` with another sticky mark. -/
def State.withMark (m : Option Fault) (s : State) : State := { s with firstError := m }

/-- What leaves its own answers and is blind to marks and answers is blind to the mark. -/
theorem withMark_of_withOutside {g : State → State} {s : State}
    (h : ∀ m ls bs n, g (s.withOutside m ls bs n) = (g s).withOutside m ls bs n) (m : Option Fault) :
    g (s.withMark m) = (g s).withMark m := by
  have hown : g s = (g s).withOutside s.firstError s.levels s.bytes s.draws := h ..
  have hmark : g (s.withMark m) = (g s).withOutside m s.levels s.bytes s.draws := h ..
  rw [hmark, hown]
  rfl

/-- A read looks at no mark, and leaves it. -/
theorem fetch_withMark {s : State} (hr : s.cfg.canRead = true) (m : Option Fault) (rs : RegisterSelect) (cls : DelayClass)
    (ret : Byte → Value) : fetch rs cls ret (s.withMark m) = (fetch rs cls ret s).withMark m := by
  have hread : readByteBody rs 0 (s.withMark m) = (answeredByte s, (afterReadByte s (rsLevel rs)).withMark m) :=
    readByteBody_eq (s := s.withMark m) hr rs
  rw [fetch_ok (s := s.withMark m) hr, fetch_ok hr, hread, readByteBody_eq hr]
  exact withMark_of_withOutside (g := complete cls _) (fun m ls bs n => complete_withOutside m ls bs n _ cls _) m

/-- Another sticky mark changes nothing of an operation but the mark itself (R256). -/
theorem opBody_withMark (i : Instr) (s : State) (m : Option Fault) :
    ∃ m', opBody i (s.withMark m) = (opBody i s).withMark m' := by
  cases he : operationError s.cfg i with
  | some f => exact ⟨m.or (some f), by rw [opBody_of_error he, opBody_of_error (s := s.withMark m) he]; rfl⟩
  | none =>
    refine ⟨m, ?_⟩
    cases hi : i.isRead with
    | false => exact withMark_of_withOutside (opBody_write_withOutside he hi) m
    | true =>
      obtain ⟨f, hf⟩ | ⟨-, hw, -⟩ | ⟨-, -, hr⟩ | ⟨-, rfl⟩ := operation_cases s.cfg i
      · cases he.symm.trans hf
      · cases hi.symm.trans hw
      · obtain ⟨rs, cls, ret, hb, -⟩ := opBody_of_read hi
        rw [hb, fetch_withMark hr]
      · cases hi

/-- Settles O41: the failed operation has left only the sticky mark, which no operation looks at. -/
theorem afterAnErrorAsIfNotCalled : Obligations.AfterAnErrorAsIfNotCalled := by
  intro i j s t u f h he hj
  obtain ⟨hs, -, rfl⟩ := exec_error h he
  obtain ⟨-, rfl⟩ := exec_next hj
  obtain ⟨m', hm⟩ := opBody_withMark j s.begin (s.firstError.or (some f))
  have hbody : opBody j (s.begin.raise f).begin = (opBody j s.begin).withMark m' := hm
  exact ⟨_, exec_idle hs j, by rw [hbody]; rfl⟩

end Sys2Proof.Machine

namespace Sys2Proof.Machine

/-! ## The fixed wait as a trailing delay (R211) -/

theorem writeByte_delay (rs : RegisterSelect) (v : Byte) (n : Nat) (s : State) :
    writeByte rs v n s = (writeByte rs v 0 s).delay n := by
  cases ht : s.cfg.transport with
  | gpio4 => simp only [writeByte, ht]; exact gpioWrite_delay ..
  | gpio8 => simp only [writeByte, ht]; exact gpioWrite_delay ..
  | i2c => simp only [writeByte, ht]; exact i2cWriteNibble_delay ..

/-- Settles O33: a written byte's trailing delay is a delay after it, and every class waits its own minimum. -/
theorem fixedWaitIsTrailingDelay : Obligations.FixedWaitIsTrailingDelay := by
  intro s i hm
  have hcfg : (writeByte i.registerSelect i.opcode 0 s).cfg = s.cfg := (writeByte_transferred ..).1
  rw [issue, writeByte_delay _ _ (i.minDelayMicros s.cfg), Instruction.minDelayMicros]
  cases i.delayClass with
  | clearHome => rfl
  | instr => simp only [complete, hcfg, hm, classMicros]
  | poll => exact congrArg (State.finish .absent) (State.delay_zero _).symm

/-! ## The poll loop (R197) -/

theorem pollOnce_eq {s : State} (hr : s.cfg.canRead = true) (v : Value) :
    pollOnce v s = .next (if (answeredByte s).getLsbD 7 then afterReadByte s false
      else (afterReadByte s false).finish v) := by
  rw [pollOnce, readByte_ok hr, tPoll, readByteBody_eq hr]
  exact (apply_ite Host.Outcome.next _ _ _).symm

/-- Settles O34: a step of an operation in flight is one status read in closed form. -/
theorem pollIteration : Obligations.PollIteration := fun _ v hs hr =>
  (step_inFlight hs).trans (pollOnce_eq hr v)

/-- The byte answered depends on the configuration and the answers alone. -/
theorem answeredByte_congr {s u : State} (hc : u.cfg = s.cfg) (hl : u.levels = s.levels) (hb : u.bytes = s.bytes)
    (hd : u.draws = s.draws) : answeredByte u = answeredByte s := by
  simp only [answeredByte, State.answerLevel, State.answerByte, hc, hl, hb, hd]

theorem answersBusy_zero (s : State) : answersBusy s 0 = (answeredByte s).getLsbD 7 := by
  refine congrArg busyFlag (answeredByte_congr ?_ ?_ ?_ ?_) <;> cases ht : s.cfg.transport <;> simp [laterAnswers, ht]

/-- After one read the answers are the next read's. -/
theorem answersBusy_afterReadByte (s : State) (rs : Level) (j : Nat) :
    answersBusy (afterReadByte s rs) j = answersBusy s (j + 1) := by
  refine congrArg busyFlag (answeredByte_congr ?_ ?_ ?_ ?_) <;> cases ht : s.cfg.transport <;>
    simp [laterAnswers, afterReadByte, ht, Nat.mul_add, Nat.add_comm, Nat.add_assoc]

theorem afterReadByte_draws (s : State) (rs : Level) :
    (afterReadByte s rs).draws = s.draws + if s.cfg.transport = .i2c then 2 else 8 := by
  cases ht : s.cfg.transport <;> simp [afterReadByte, ht]

/-- A busy answer leaves the operation in flight after one read. -/
theorem step_busy {s : State} {v : Value} (hs : s.inFlight = some v) (hr : s.cfg.canRead = true)
    (hb : answersBusy s 0 = true) : step s = .next (afterReadByte s false) := by
  rw [pollIteration s v hs hr, if_pos (by rwa [answersBusy_zero] at hb)]

/-- A ready answer ends the operation after one read. -/
theorem step_ready {s : State} {v : Value} (hs : s.inFlight = some v) (hr : s.cfg.canRead = true)
    (hb : answersBusy s 0 = false) :
    step s = .next { afterReadByte s false with inFlight := none, outcome := some (.ok v) } := by
  rw [pollIteration s v hs hr, if_neg (by rw [← answersBusy_zero, hb]; simp)]

/-- Settles O35, by induction on the number of busy answers. -/
theorem pollLoopEndsAtFirstReadyAnswer : Obligations.PollLoopEndsAtFirstReadyAnswer := by
  intro s v n
  induction n generalizing s with
  | zero =>
    intro hs hr _ hready
    refine ⟨_, (run_next (step_ready hs hr hready) 0), rfl, rfl, rfl, rfl, ?_⟩
    simpa using afterReadByte_draws s false
  | succ n ih =>
    intro hs hr hbusy hready
    obtain ⟨t, ht, hf, ho, hcalls, hcfg, hdraws⟩ := ih (afterReadByte s false) hs hr
      (fun j hj => by rw [answersBusy_afterReadByte]; exact hbusy (j + 1) (by omega))
      (by rw [answersBusy_afterReadByte]; exact hready)
    refine ⟨t, (run_next (step_busy hs hr (hbusy 0 (by omega))) (n + 1)).trans ht, hf, ho, hcalls, hcfg, ?_⟩
    rw [hdraws, afterReadByte_draws, show (afterReadByte s false).cfg = s.cfg from rfl]
    ring

/-- Settles O36, by induction on the number of busy answers. -/
theorem pollLoopHangsWhileBusy : Obligations.PollLoopHangsWhileBusy := by
  intro s v n
  induction n generalizing s with
  | zero => exact fun hs _ _ => ⟨s, rfl, hs, rfl, rfl⟩
  | succ n ih =>
    intro hs hr hbusy
    obtain ⟨t, ht, hf, ho, hcalls⟩ := ih (afterReadByte s false) hs hr
      (fun j hj => by rw [answersBusy_afterReadByte]; exact hbusy (j + 1) (by omega))
    exact ⟨t, (run_next (step_busy hs hr (hbusy 0 (by omega))) n).trans ht, hf, ho, hcalls⟩

end Sys2Proof.Machine

namespace Sys2Proof.Machine

/-! ## Steps and calls (R10, R11) -/

/-- Settles O46. -/
theorem idleEngineDoesNothing : Obligations.IdleEngineDoesNothing := by
  intro s hs hc
  simp only [step, hs, hc]

theorem pollOnce_calls {s t : State} {v : Value} (h : pollOnce v s = .next t) : t.calls = s.calls := by
  obtain ⟨tr, x, dir, ls, bs, k, hf⟩ := readByteBody_frame .command 0 s
  obtain ⟨-, -, hp⟩ | ⟨-, -, hp⟩ | ⟨-, hp⟩ := pollOnce_cases v s <;> cases hp.symm.trans h
  · rw [hf]
  · rw [State.finish_calls, hf]

/-- Settles O42: `exec` refuses while an operation is in flight, and a step of it is a status read. -/
theorem oneOperationAtATime : Obligations.OneOperationAtATime := fun s _ hs =>
  ⟨fun i => (exec_eq_present i s).trans (present_busy hs),
    fun _ h => pollOnce_calls ((step_inFlight hs).symm.trans h)⟩

theorem decodeContainer_setWidth (w : TransferWord) : decodeContainer (w.setWidth 16) = decode w := by
  have hhigh : (w.setWidth 16).extractLsb' 10 6 = 0#6 := by
    apply BitVec.eq_of_getLsbD_eq
    intro i hi
    simp [BitVec.getLsbD_of_ge]
  have hlow : (w.setWidth 16).extractLsb' 0 10 = w := by
    apply BitVec.eq_of_getLsbD_eq
    intro i hi
    simp [hi, show i < 16 by omega]
  rw [decodeContainer, if_pos hhigh, hlow]

theorem callInstr_word {w : BitVec 16} {i : Instr} (h : decodeContainer w = .ok i) : callInstr (.word w) = .ok i := by
  rw [callInstr, h]

/-- Settles O43: a call stands for its operation, and a step takes it off and runs it. -/
theorem stepRunsThePresentedOperation : Obligations.StepRunsThePresentedOperation := fun _ _ _ hs =>
  ⟨fun hc => step_call hs hc rfl,
    fun w hw hc => step_call hs hc (callInstr_word ((decodeContainer_setWidth w).trans hw))⟩

/-- Settles O45: a word that decodes is below its width, so the placing does not cut it. -/
theorem fetchWordIsRunNext : Obligations.FetchWordIsRunNext := by
  intro s nbits w i h
  unfold decodeTableWord at h
  split at h
  · next hw =>
    have hdecode : decodeContainer (BitVec.ofNat 16 w) = .ok i := by
      cases hd : decodeContainer (BitVec.ofNat 16 w) with
      | ok j => rw [hd] at h; exact congrArg _ (Option.some.inj h)
      | error e => rw [hd] at h; cases h
    have hcall : (s.withFetchWord nbits w).calls = .word (BitVec.ofNat 16 w) :: s.calls := by
      rw [State.withFetchWord_calls, Nat.mod_eq_of_lt hw]
    exact step_call (s.withFetchWord_inFlight nbits w) hcall (callInstr_word hdecode)
  · cases h

/-! ## When a step stops -/

theorem callInstr_error {c : Call} {r : Refusal} (h : callInstr c = .error r) :
    ∃ w, c = .word w ∧ ∀ i, decodeContainer w ≠ .ok i := by
  cases c with
  | op i => cases h
  | word w => exact ⟨w, rfl, fun i hi => by cases (callInstr_word hi).symm.trans h⟩

/-- A step gives a next state unless the call is no operation. -/
theorem step_cases {s : State} (h : EngineInv s) : (∃ t, step s = .next t) ∨
    ∃ r w rest, step s = .refused r ∧ s.inFlight = none ∧ s.calls = .word w :: rest ∧ ∀ i, decodeContainer w ≠ .ok i := by
  cases hs : s.inFlight with
  | some v =>
    have hpoll : s.cfg.waitMode = .poll := h.inFlight (by rw [hs]; rfl)
    have hr : s.cfg.canRead = true := by
      have hwf := h.wf
      simp only [Cfg.wf, hpoll, Bool.and_eq_true] at hwf
      simpa using hwf.1
    exact .inl ⟨_, (step_inFlight hs).trans (pollOnce_eq hr v)⟩
  | none =>
    cases hc : s.calls with
    | nil => exact .inl ⟨s, idleEngineDoesNothing s hs hc⟩
    | cons c rest =>
      cases hi : callInstr c with
      | ok i => exact .inl ⟨_, (step_call hs hc hi).trans (exec_idle (by exact hs) i)⟩
      | error r =>
        obtain ⟨w, rfl, hw⟩ := callInstr_error hi
        exact .inr ⟨r, w, rest, step_refused hs hc hi, rfl, rfl, hw⟩

/-- Settles O47: each arm of a step, the poll loop's refusal being out of reach of a well-formed configuration. -/
theorem stepStopsOnlyOnANonOperation : Obligations.StepStopsOnlyOnANonOperation := by
  intro s h
  obtain ⟨t, ht⟩ | ⟨r, w, rest, hr, hs, hc, hw⟩ := step_cases h
  · exact ⟨fun f hf => (by cases ht.symm.trans hf), fun r hr => (by cases ht.symm.trans hr)⟩
  · exact ⟨fun f hf => (by cases hr.symm.trans hf), fun _ _ => ⟨w, rest, hs, hc, hw⟩⟩

/-! ## What every step keeps -/

theorem complete_calls (cls : DelayClass) (v : Value) (s : State) : (complete cls v s).calls = s.calls := by
  obtain ⟨-, hc⟩ | ⟨-, -, hc⟩ | ⟨-, -, hc⟩ | ⟨-, hc⟩ := complete_cases cls v s <;> rw [hc]
  · rw [State.delay_eq]; rfl
  · rw [State.delay_eq]; rfl
  · rfl

theorem initManually_calls (s : State) : (initManually s).calls = s.calls := by
  cases ht : s.cfg.transport with
  | gpio4 => simp only [initManually, ht, initNibbles, State.delay_eq, gpio4WriteNibble_eq]
  | gpio8 => simp only [initManually, ht, initBytes, gpio8WriteByte, State.delay_eq, gpioWrite_gpio8]
  | i2c => simp only [initManually, ht, initNibbles, State.delay_eq, i2cWriteNibble_eq]

theorem opBody_calls (i : Instr) (s : State) : (opBody i s).calls = s.calls := by
  obtain ⟨f, hb⟩ | ⟨-, e, hb⟩ | ⟨-, hr, rs, cls, v, hb⟩ | ⟨-, hb⟩ := opBody_cases i s <;> rw [hb]
  · rfl
  · rw [issue, complete_calls, writeByte_eq]; rfl
  · rw [complete_calls, readByteBody_eq hr]; rfl
  · exact initManually_calls s

/-- Settles O48: a poll iteration takes no call, and an operation's call is the first. -/
theorem stepKeepsConfigurationAndGrowsTrace : Obligations.StepKeepsConfigurationAndGrowsTrace := by
  intro s t h
  obtain ⟨v, -, hp⟩ | ⟨-, -, rfl⟩ | ⟨c, rest, i, -, hc, -, he⟩ := step_next h
  · obtain ⟨hcfg, -, u, hu, -⟩ := pollOnce_transferred hp
    exact ⟨hcfg, ⟨u, hu⟩, .inl (pollOnce_calls hp)⟩
  · exact ⟨rfl, ⟨[], by simp⟩, .inl rfl⟩
  · obtain ⟨-, rfl⟩ := exec_next he
    obtain ⟨hcfg, -, hu⟩ := opBody_grows i (State.begin { s with calls := rest })
    exact ⟨hcfg, hu, .inr ⟨c, by rw [opBody_calls]; exact hc⟩⟩

end Sys2Proof.Machine

namespace Sys2Proof.Machine

/-! ## A delay put before a canonical trace (R16) -/

/-- `Delay(n)` before a canonical trace: added to a delay at its front, left out where it is 0. -/
def addDelay (n : Nat) : List Event → List Event
  | .delay m :: r => .delay (n + m) :: r
  | r => delayTrace n ++ r

theorem canonTrace_delay (n : Nat) (t : List Event) : canonTrace (.delay n :: t) = addDelay n (canonTrace t) := by
  rw [canonTrace]
  cases canonTrace t with
  | nil => rfl
  | cons ev r => cases ev <;> rfl

theorem canonTrace_cons {ev : Event} (h : ev.isDelay = false) (t : List Event) :
    canonTrace (ev :: t) = ev :: canonTrace t := by
  cases ev with
  | delay n => cases h
  | _ => rfl

theorem addDelay_nil (n : Nat) : addDelay n [] = delayTrace n := List.append_nil _

theorem addDelay_cons {ev : Event} (h : ev.isDelay = false) (n : Nat) (r : List Event) :
    addDelay n (ev :: r) = delayTrace n ++ ev :: r := by
  cases ev with
  | delay m => cases h
  | _ => rfl

theorem Event.isDelay_iff (ev : Event) : ev.isDelay = true ↔ ∃ n, ev = .delay n := by
  cases ev <;> simp [Event.isDelay]

/-- The three shapes of a trace that a delay meets. -/
theorem trace_front (c : List Event) : c = [] ∨ (∃ m r, c = .delay m :: r) ∨ ∃ ev r, c = ev :: r ∧ ev.isDelay = false := by
  cases c with
  | nil => exact .inl rfl
  | cons ev r =>
    cases h : ev.isDelay with
    | true =>
      obtain ⟨m, rfl⟩ := (Event.isDelay_iff ev).mp h
      exact .inr (.inl ⟨m, r, rfl⟩)
    | false => exact .inr (.inr ⟨ev, r, rfl, h⟩)

theorem addDelay_zero (c : List Event) : addDelay 0 c = c := by
  obtain rfl | ⟨m, r, rfl⟩ | ⟨ev, r, rfl, h⟩ := trace_front c
  · rfl
  · rw [addDelay, Nat.zero_add]
  · rw [addDelay_cons h]; rfl

/-- Two delays in a row are their sum. -/
theorem addDelay_addDelay (m n : Nat) (c : List Event) : addDelay m (addDelay n c) = addDelay (m + n) c := by
  rcases Nat.eq_zero_or_pos n with rfl | hn
  · rw [addDelay_zero, Nat.add_zero]
  have hn' : n ≠ 0 := by omega
  have hmn : m + n ≠ 0 := by omega
  obtain rfl | ⟨k, r, rfl⟩ | ⟨ev, r, rfl, h⟩ := trace_front c
  · rw [addDelay_nil, addDelay_nil, delayTrace_pos hn', delayTrace_pos hmn, addDelay]
  · rw [addDelay, addDelay, addDelay, Nat.add_assoc]
  · rw [addDelay_cons h, addDelay_cons h, delayTrace_pos hn', delayTrace_pos hmn]; rfl

theorem addDelay_append {ev : Event} (h : ev.isDelay = false) (n : Nat) (c d : List Event) :
    addDelay n (c ++ ev :: d) = addDelay n c ++ ev :: d := by
  obtain rfl | ⟨m, r, rfl⟩ | ⟨ev', r, rfl, h'⟩ := trace_front c
  · rw [List.nil_append, addDelay_cons h, addDelay_nil]
  · rfl
  · rw [List.cons_append, addDelay_cons h', addDelay_cons h', List.append_assoc]; rfl

theorem minTime_cons {ev : Event} (h : ev.isDelay = false) (t : List Event) : minTime (ev :: t) = minTime t := by
  cases ev with
  | delay n => cases h
  | _ => rfl

theorem minTime_addDelay (n : Nat) (c : List Event) : minTime (addDelay n c) = n + minTime c := by
  obtain rfl | ⟨m, r, rfl⟩ | ⟨ev, r, rfl, h⟩ := trace_front c
  · rw [addDelay_nil, minTime_delayTrace]; rfl
  · rw [addDelay, minTime, minTime, Nat.add_assoc]
  · rw [addDelay_cons h, minTime_append, minTime_delayTrace]

theorem filter_delayTrace (n : Nat) : (delayTrace n).filter (fun ev => !ev.isDelay) = [] := by
  unfold delayTrace
  split <;> rfl

theorem filter_addDelay (n : Nat) (c : List Event) :
    (addDelay n c).filter (fun ev => !ev.isDelay) = c.filter (fun ev => !ev.isDelay) := by
  obtain rfl | ⟨m, r, rfl⟩ | ⟨ev, r, rfl, h⟩ := trace_front c
  · rw [addDelay_nil, filter_delayTrace]; rfl
  · rfl
  · rw [addDelay_cons h, List.filter_append, filter_delayTrace, List.nil_append]

/-! ## Canonical traces -/

/-- No `Delay(0)`, and no two delays in a row. -/
def IsCanonical (c : List Event) : Prop :=
  Event.delay 0 ∉ c ∧ c.IsChain (fun a b => ¬ ∃ m n, a = .delay m ∧ b = .delay n)

theorem IsCanonical.tail {ev : Event} {c : List Event} (h : IsCanonical (ev :: c)) : IsCanonical c :=
  ⟨fun hm => h.1 (List.mem_cons_of_mem ev hm), h.2.tail⟩

theorem IsCanonical.cons {ev : Event} (hev : ev.isDelay = false) {c : List Event} (h : IsCanonical c) :
    IsCanonical (ev :: c) := by
  have hne : ∀ m, ev ≠ .delay m := fun m e => by rw [e] at hev; cases hev
  refine ⟨fun hm => (List.mem_cons.mp hm).elim (fun e => hne 0 e.symm) h.1, ?_⟩
  cases c with
  | nil => exact List.IsChain.singleton ev
  | cons ev' r => exact List.IsChain.cons_cons (fun ⟨m, _, e, _⟩ => hne m e) h.2

theorem isCanonical_addDelay {c : List Event} (h : IsCanonical c) (n : Nat) : IsCanonical (addDelay n c) := by
  rcases Nat.eq_zero_or_pos n with rfl | hn
  · rwa [addDelay_zero]
  have hn' : n ≠ 0 := by omega
  obtain rfl | ⟨m, r, rfl⟩ | ⟨ev, r, rfl, hev⟩ := trace_front c
  · rw [addDelay_nil, delayTrace_pos hn']
    exact ⟨by simp [hn'.symm], List.IsChain.singleton _⟩
  · refine ⟨fun hm => ?_, ?_⟩
    · rcases List.mem_cons.mp hm with e | hm
      · have hsum : 0 = n + m := Event.delay.inj e
        omega
      · exact h.1 (List.mem_cons_of_mem _ hm)
    · cases r with
      | nil => exact List.IsChain.singleton _
      | cons ev r =>
        obtain ⟨hrel, hrest⟩ := List.isChain_cons_cons.mp h.2
        exact List.IsChain.cons_cons (fun ⟨_, k, _, e⟩ => hrel ⟨m, k, rfl, e⟩) hrest
  · rw [addDelay_cons hev, delayTrace_pos hn']
    refine ⟨fun hm => ?_, List.IsChain.cons_cons (fun ⟨_, k, _, e⟩ => by rw [e] at hev; cases hev) h.2⟩
    rcases List.mem_cons.mp hm with e | hm
    · exact hn' (Event.delay.inj e).symm
    · exact h.1 hm

theorem canonTrace_isCanonical (t : List Event) : IsCanonical (canonTrace t) := by
  induction t with
  | nil => exact ⟨List.not_mem_nil, List.IsChain.nil⟩
  | cons ev t ih =>
    cases h : ev.isDelay with
    | true =>
      obtain ⟨n, rfl⟩ := (Event.isDelay_iff ev).mp h
      rw [canonTrace_delay]
      exact isCanonical_addDelay ih n
    | false =>
      rw [canonTrace_cons h]
      exact ih.cons h

/-- A canonical trace is its own. -/
theorem canonTrace_of_isCanonical {c : List Event} (h : IsCanonical c) : canonTrace c = c := by
  induction c with
  | nil => rfl
  | cons ev r ih =>
    have hr := ih h.tail
    cases hev : ev.isDelay with
    | false => rw [canonTrace_cons hev, hr]
    | true =>
      obtain ⟨n, rfl⟩ := (Event.isDelay_iff ev).mp hev
      have hn : n ≠ 0 := fun e => h.1 (by rw [e]; exact List.mem_cons_self)
      rw [canonTrace_delay, hr]
      obtain rfl | ⟨m, r, rfl⟩ | ⟨ev', r, rfl, hev'⟩ := trace_front r
      · rw [addDelay_nil, delayTrace_pos hn]
      · exact absurd ⟨n, m, rfl, rfl⟩ (List.isChain_cons_cons.mp h.2).1
      · rw [addDelay_cons hev', delayTrace_pos hn]; rfl

/-- Delays are added within a stretch of them and moved past no other event. -/
theorem canonTrace_append_event {ev : Event} (h : ev.isDelay = false) (t u : List Event) :
    canonTrace (t ++ ev :: u) = canonTrace t ++ ev :: canonTrace u := by
  induction t with
  | nil => exact canonTrace_cons h u
  | cons ev' t ih =>
    cases h' : ev'.isDelay with
    | true =>
      obtain ⟨n, rfl⟩ := (Event.isDelay_iff ev').mp h'
      rw [List.cons_append, canonTrace_delay, ih, addDelay_append h, canonTrace_delay]
    | false => rw [List.cons_append, canonTrace_cons h', ih, canonTrace_cons h', List.cons_append]

theorem canonTrace_delays (ns : List Nat) : canonTrace (ns.map .delay) = delayTrace ns.sum := by
  induction ns with
  | nil => rfl
  | cons n ns ih =>
    rw [List.map_cons, canonTrace_delay, ih, ← addDelay_nil ns.sum, addDelay_addDelay, addDelay_nil, List.sum_cons]

theorem canonTrace_filter (t : List Event) :
    (canonTrace t).filter (fun ev => !ev.isDelay) = t.filter (fun ev => !ev.isDelay) := by
  induction t with
  | nil => rfl
  | cons ev t ih =>
    cases h : ev.isDelay with
    | true =>
      obtain ⟨n, rfl⟩ := (Event.isDelay_iff ev).mp h
      rw [canonTrace_delay, filter_addDelay, ih]; rfl
    | false => rw [canonTrace_cons h, List.filter_cons, List.filter_cons, ih]

theorem minTime_canonTrace (t : List Event) : minTime (canonTrace t) = minTime t := by
  induction t with
  | nil => rfl
  | cons ev t ih =>
    cases h : ev.isDelay with
    | true =>
      obtain ⟨n, rfl⟩ := (Event.isDelay_iff ev).mp h
      rw [canonTrace_delay, minTime_addDelay, ih]; rfl
    | false => rw [canonTrace_cons h, minTime_cons h, minTime_cons h, ih]

/-! ## Same behaviour -/

/-- What stands before does not matter. -/
theorem SameBehaviour.append_left {u v : List Event} (h : SameBehaviour u v) (t : List Event) :
    SameBehaviour (t ++ u) (t ++ v) := by
  induction t with
  | nil => exact h
  | cons ev t ih =>
    have ih' : canonTrace (t ++ u) = canonTrace (t ++ v) := ih
    unfold SameBehaviour
    cases hev : ev.isDelay with
    | true =>
      obtain ⟨n, rfl⟩ := (Event.isDelay_iff ev).mp hev
      rw [List.cons_append, List.cons_append, canonTrace_delay, canonTrace_delay, ih']
    | false => rw [List.cons_append, List.cons_append, canonTrace_cons hev, canonTrace_cons hev, ih']

theorem sameBehaviour_delay_zero (u : List Event) : SameBehaviour (.delay 0 :: u) u := by
  rw [SameBehaviour, canonTrace_delay, addDelay_zero]

theorem sameBehaviour_delay_delay (m n : Nat) (u : List Event) :
    SameBehaviour (.delay m :: .delay n :: u) (.delay (m + n) :: u) := by
  rw [SameBehaviour, canonTrace_delay, canonTrace_delay, addDelay_addDelay, canonTrace_delay]

/-- Settles O38: `addDelay` says what one delay does, and each clause is an induction over the trace. -/
theorem canonicalTraceIsCanonical : Obligations.CanonicalTraceIsCanonical :=
  ⟨fun t => ⟨(canonTrace_isCanonical t).1, (canonTrace_isCanonical t).2, canonTrace_filter t,
      canonTrace_of_isCanonical (canonTrace_isCanonical t), minTime_canonTrace t⟩,
    fun t u _ h => canonTrace_append_event h t u, canonTrace_delays,
    fun t u => (sameBehaviour_delay_zero u).append_left t,
    fun t u m n => (sameBehaviour_delay_delay m n u).append_left t⟩

end Sys2Proof.Machine

namespace Sys2Proof.Machine

/-! ## The trace of one operation -/

theorem opTrace_of_grown {s t : State} {u : List Event} (ht : t.trace = s.trace ++ u) (ho : t.opStart = s.trace.length) :
    t.opTrace = u := by
  rw [State.opTrace, ht, ho, List.drop_left]

/-- The wait after a transfer: some delay, which is the class's own where no poll loop is entered. -/
theorem complete_trace (cls : DelayClass) (v : Value) (s : State) :
    ∃ k, (complete cls v s).trace = s.trace ++ delayTrace k ∧ (complete cls v s).opStart = s.opStart ∧
      (cls ≠ .instr ∨ s.cfg.waitMode = .fixed → (complete cls v s).inFlight = none ∧ k = classMicros s.cfg cls) := by
  obtain ⟨rfl, hc⟩ | ⟨rfl, hm, hc⟩ | ⟨rfl, hm, hc⟩ | ⟨rfl, hc⟩ := complete_cases cls v s <;> rw [hc]
  · exact ⟨1520, by rw [State.delay_eq]; rfl, by rw [State.delay_eq]; rfl, fun _ => ⟨rfl, rfl⟩⟩
  · exact ⟨s.cfg.tInstr, by rw [State.delay_eq]; rfl, by rw [State.delay_eq]; rfl, fun _ => ⟨rfl, rfl⟩⟩
  · exact ⟨0, (List.append_nil _).symm, rfl, fun h => by simp [hm] at h⟩
  · exact ⟨0, (List.append_nil _).symm, rfl, fun _ => ⟨rfl, rfl⟩⟩

/-- The trace of an operation that writes one byte. -/
theorem exec_write_opTrace {s : State} (hs : s.inFlight = none) {i : Instr} {e : Instruction}
    (h : writeInstruction i = some e) :
    ∃ t k, exec i s = .next t ∧
      t.opTrace = writeByteTrace s.cfg s.dir (rsLevel e.registerSelect) e.opcode ++ delayTrace k ∧
      (s.cfg.waitMode = .fixed → t.inFlight = none ∧ k = e.minDelayMicros s.cfg) := by
  obtain ⟨k, htr, ho, hk⟩ := complete_trace e.delayClass .absent
    (afterWriteByte s.begin (rsLevel e.registerSelect) e.opcode)
  refine ⟨_, k, exec_idle hs i, ?_⟩
  rw [opBody_of_instruction h, issue, writeByte_eq]
  exact ⟨opTrace_of_grown (htr.trans (List.append_assoc ..)) ho, fun hm => hk (.inr hm)⟩

/-- The trace of an operation that reads one byte. -/
theorem exec_read_opTrace {s : State} (hs : s.inFlight = none) (hr : s.cfg.canRead = true) {i : Instr}
    (h : i.isRead = true) :
    ∃ t k, exec i s = .next t ∧ t.opTrace = readByteTrace s (decide (i = .rddata)) ++ delayTrace k ∧
      (i = .rdstat ∨ s.cfg.waitMode = .fixed → t.inFlight = none ∧ k = if i = .rddata then s.cfg.tInstr else 0) := by
  have hread : ∀ rs : RegisterSelect, readByteBody rs 0 s.begin = (answeredByte s, afterReadByte s.begin (rsLevel rs)) :=
    readByteBody_eq (s := s.begin) hr
  cases i with
  | rddata =>
    obtain ⟨k, htr, ho, hk⟩ := complete_trace .instr (.byte (answeredByte s)) (afterReadByte s.begin true)
    refine ⟨_, k, exec_idle hs _, ?_⟩
    rw [opBody, fetch_ok (s := s.begin) hr, hread]
    exact ⟨opTrace_of_grown (htr.trans (List.append_assoc ..)) ho, fun hm => hk (hm.imp (by simp) id)⟩
  | rdstat =>
    obtain ⟨k, htr, ho, hk⟩ := complete_trace .poll (.status (decodeStatus (answeredByte s))) (afterReadByte s.begin false)
    refine ⟨_, k, exec_idle hs _, ?_⟩
    rw [opBody, fetch_ok (s := s.begin) hr, hread]
    exact ⟨opTrace_of_grown (htr.trans (List.append_assoc ..)) ho, fun _ => hk (.inl (by simp))⟩
  | _ => cases h

/-! ## The word and the class of a written instruction -/

/-- The word of a writing operation is its instruction's (R81, R82). -/
theorem writeInstruction_of_encode {i : Instr} {w : TransferWord} (hi : i.isRead = false) (h : encode i = some w) :
    ∃ e, writeInstruction i = some e ∧ w = transferWord (rsLevel e.registerSelect) false e.opcode := by
  cases i with
  | setcg a =>
    obtain ⟨hwf, hw⟩ := Option.ite_none_right_eq_some.mp h
    obtain ⟨h0, h63⟩ := (wf_setcg_iff a).mp hwf
    exact ⟨_, writeInstruction_setcg h0 h63, (Option.some.inj hw).symm⟩
  | setdd a =>
    obtain ⟨hwf, hw⟩ := Option.ite_none_right_eq_some.mp h
    obtain ⟨h0, h127⟩ := (wf_setdd_iff a).mp hwf
    exact ⟨_, writeInstruction_setdd h0 h127, (Option.some.inj hw).symm⟩
  | rddata => cases hi
  | rdstat => cases hi
  | init => cases h
  | _ => exact ⟨_, rfl, (Option.some.inj h).symm⟩

theorem writeInstruction_delayClass {i : Instr} {e : Instruction} (h : writeInstruction i = some e) :
    e.delayClass = if i = .clear ∨ i = .home then .clearHome else .instr := by
  cases i with
  | setcg a =>
    by_cases hr : a < 0 ∨ 63 < a
    · rw [writeInstruction, encodeSetCgramAddress_error hr] at h
      cases h
    · rw [writeInstruction_setcg (by omega) (by omega)] at h
      cases h
      rfl
  | setdd a =>
    by_cases hr : a < 0 ∨ 127 < a
    · rw [writeInstruction, encodeSetDdramAddress_error hr] at h
      cases h
    · rw [writeInstruction_setdd (by omega) (by omega)] at h
      cases h
      rfl
  | rddata => cases h
  | rdstat => cases h
  | init => cases h
  | _ => cases h; rfl

theorem writeInstruction_minDelay {i : Instr} {e : Instruction} (h : writeInstruction i = some e) (c : Cfg) :
    e.minDelayMicros c = if i = .clear ∨ i = .home then 1520 else c.tInstr := by
  rw [Instruction.minDelayMicros, writeInstruction_delayClass h]
  split <;> rfl

/-! ## The machine's traces and the rules' -/

theorem sameBehaviour_delayTrace (n : Nat) : SameBehaviour (delayTrace n) [.delay n] := by
  by_cases hn : n = 0
  · rw [hn]
    exact (sameBehaviour_delay_zero []).symm
  · rw [delayTrace_pos hn]
    rfl

/-- A first transfer's `Delay(0)` and a last one's `Delay(n)` are what the machine leaves out or makes. -/
theorem sameBehaviour_two_transfers (a b : List Event) (n : Nat) :
    SameBehaviour (a ++ b ++ delayTrace n) (a ++ [Event.delay 0] ++ b ++ [Event.delay n]) := by
  have hlast : SameBehaviour (a ++ (b ++ delayTrace n)) (a ++ (b ++ [.delay n])) :=
    ((sameBehaviour_delayTrace n).append_left b).append_left a
  have hfirst : SameBehaviour (a ++ .delay 0 :: (b ++ [.delay n])) (a ++ (b ++ [.delay n])) :=
    (sameBehaviour_delay_zero _).append_left a
  have hboth : SameBehaviour (a ++ (b ++ delayTrace n)) (a ++ .delay 0 :: (b ++ [.delay n])) := hlast.trans hfirst.symm
  simpa [List.append_assoc] using hboth

theorem writeByteTrace_sameBehaviour (c : Cfg) (dir : Vector Dir 8) (rs : Level) (v : Byte) (n : Nat) :
    SameBehaviour (writeByteTrace c dir rs v ++ delayTrace n) (writeByteRuleTrace c dir rs v n) := by
  cases ht : c.transport with
  | gpio4 => simpa only [writeByteTrace, writeByteRuleTrace, ht] using sameBehaviour_two_transfers _ _ n
  | gpio8 => simpa only [writeByteTrace, writeByteRuleTrace, ht] using (sameBehaviour_delayTrace n).append_left _
  | i2c => simpa only [writeByteTrace, writeByteRuleTrace, ht] using sameBehaviour_two_transfers _ _ n

theorem readByteTrace_sameBehaviour (s : State) (rs : Level) (n : Nat) :
    SameBehaviour (readByteTrace s rs ++ delayTrace n) (readByteRuleTrace s rs n) := by
  cases ht : s.cfg.transport with
  | gpio4 => simpa only [readByteTrace, readByteRuleTrace, ht] using sameBehaviour_two_transfers _ _ n
  | gpio8 => simpa only [readByteTrace, readByteRuleTrace, ht] using (sameBehaviour_delayTrace n).append_left _
  | i2c => simpa only [readByteTrace, readByteRuleTrace, ht] using sameBehaviour_two_transfers _ _ n

/-- The bus events of an I2C read transfer, its 4 µs left out (R175 steps 1 to 4). -/
def i2cReadEvents (c : Cfg) (rs : Level) (v : Byte) : List Event :=
  [.bw c.i2cAddr (expanderByte c rs true false 0xF#4), .bw c.i2cAddr (expanderByte c rs true true 0xF#4),
   .br c.i2cAddr v, .bw c.i2cAddr (expanderByte c rs true false 0xF#4)]

theorem i2cReadTrace_eq (c : Cfg) (rs : Level) (v : Byte) : i2cReadTrace c rs v = i2cReadEvents c rs v ++ [Event.delay 4] :=
  rfl

/-- On I2C a read's trailing delay adds to the 4 µs after its last de-assert. -/
theorem readByteTrace_i2c_sameBehaviour {s : State} (ht : s.cfg.transport = .i2c) (rs : Level) (n : Nat) :
    SameBehaviour (readByteTrace s rs ++ delayTrace n) (i2cReadTrace s.cfg rs (s.answerByte 0) ++
      (i2cReadEvents s.cfg rs (s.answerByte 1) ++ [Event.delay (4 + n)])) := by
  have hdelay : SameBehaviour (Event.delay 4 :: delayTrace n) [Event.delay (4 + n)] :=
    ((sameBehaviour_delayTrace n).append_left [Event.delay 4]).trans (sameBehaviour_delay_delay 4 n [])
  have h := (hdelay.append_left (i2cReadEvents s.cfg rs (s.answerByte 1))).append_left
    (i2cReadTrace s.cfg rs (s.answerByte 0))
  simpa only [readByteTrace, ht, i2cReadTrace_eq s.cfg rs (s.answerByte 1), List.append_assoc, List.cons_append,
    List.nil_append] using h

theorem readByteBody_delay (rs : RegisterSelect) (n : Nat) (s : State) :
    readByteBody rs n s = ((readByteBody rs 0 s).1, (readByteBody rs 0 s).2.delay n) := by
  cases ht : s.cfg.transport with
  | gpio4 => simp only [readByteBody, ht, gpio4ReadNibble]; rw [gpioRead_delay _ _ n]
  | gpio8 => simp only [readByteBody, ht]; exact gpioRead_delay ..
  | i2c => simp only [readByteBody, ht]; rw [i2cReadNibble_delay _ n]

/-- Settles O57: the traces in closed form, the machine's delays left out or added as R16 lets them be. -/
theorem machineTracesAreTheRulesTraces : Obligations.MachineTracesAreTheRulesTraces := by
  refine ⟨fun s rs v n => ?_, fun s rs n hr => ?_, fun s i w hs hm hi hw => ?_, fun s hs hm hr => ?_⟩
  · rw [← rsLevel_eq]
    refine ⟨_, ?_, writeByteTrace_sameBehaviour s.cfg s.dir (rsLevel rs) v n⟩
    rw [writeByte_delay, writeByte_eq, State.delay_eq, ← List.append_assoc]
    rfl
  · rw [← rsLevel_eq]
    refine ⟨(afterReadByte s (rsLevel rs)).delay n, _, ?_, ?_, readByteTrace_sameBehaviour s (rsLevel rs) n,
      fun ht => readByteTrace_i2c_sameBehaviour ht _ n⟩
    · rw [readByte_ok hr, readByteBody_delay, readByteBody_eq hr]
    · rw [State.delay_eq, ← List.append_assoc]
      rfl
  · obtain ⟨e, he, rfl⟩ := writeInstruction_of_encode hi hw
    obtain ⟨t, k, ht, htr, hk⟩ := exec_write_opTrace hs he
    obtain ⟨hf, rfl⟩ := hk hm
    refine ⟨t, ht, hf, ?_⟩
    rw [htr, (Laws.Direction.transferWord_control ..).1, ← TransferWord.byte, transferWord_byte, ← writeInstruction_minDelay he]
    exact writeByteTrace_sameBehaviour ..
  · obtain ⟨t, k, ht, htr, hk⟩ := exec_read_opTrace hs hr (i := .rddata) rfl
    obtain ⟨hf, rfl⟩ := hk (.inr hm)
    refine ⟨t, ht, hf, ?_⟩
    rw [htr]
    exact readByteTrace_sameBehaviour ..

/-! ## The least time of each operation (R297) -/

theorem minTime_flatten {us : List (List Event)} (h : ∀ u ∈ us, minTime u = 0) : minTime us.flatten = 0 := by
  induction us with
  | nil => rfl
  | cons u us ih =>
    rw [List.flatten_cons, minTime_append, h u List.mem_cons_self, ih fun u hu => h u (List.mem_cons_of_mem _ hu)]

theorem minTime_controlTrace (c : Cfg) (rs rw : Level) : minTime (controlTrace c rs rw) = 0 := by
  cases hc : c.hasRW <;> simp [controlTrace, hc, minTime]

theorem minTime_gpioWriteTrace (c : Cfg) (dir : Vector Dir 8) (lines : List (Fin 8)) (rs : Level) (v : Byte) :
    minTime (gpioWriteTrace c dir lines rs v) = 2 := by
  have hdrive : minTime (lines.map fun k => driveTrace dir[k] k (v.getLsbD k)).flatten = 0 := by
    refine minTime_flatten fun u hu => ?_
    obtain ⟨k, -, rfl⟩ := List.mem_map.mp hu
    unfold driveTrace
    split <;> rfl
  simp only [gpioWriteTrace, minTime_append, minTime_controlTrace, hdrive, minTime]

theorem minTime_gets (lines : List (Fin 8)) (v : Byte) :
    minTime (lines.map fun k => Event.get (.db k) (v.getLsbD k)) = 0 := by
  induction lines with
  | nil => rfl
  | cons k ks ih => exact ih

theorem minTime_gpioReadTrace (c : Cfg) (dir : Vector Dir 8) (lines : List (Fin 8)) (rs : Level) (v : Byte) :
    minTime (gpioReadTrace c dir lines rs v) = 2 := by
  have hrelease : minTime (lines.map fun k => releaseTrace dir[k] k).flatten = 0 := by
    refine minTime_flatten fun u hu => ?_
    obtain ⟨k, -, rfl⟩ := List.mem_map.mp hu
    unfold releaseTrace
    split <;> rfl
  simp only [gpioReadTrace, minTime_append, minTime_controlTrace, hrelease, minTime_gets, minTime]

/-- The least time of one written byte. -/
def writeMicros : Transport → Nat
  | .gpio8 => 2
  | .gpio4 => 4
  | .i2c => 0

/-- The least time of one read byte. -/
def readMicros : Transport → Nat
  | .gpio8 => 2
  | .gpio4 => 4
  | .i2c => 8

theorem minTime_writeByteTrace (c : Cfg) (dir : Vector Dir 8) (rs : Level) (v : Byte) :
    minTime (writeByteTrace c dir rs v) = writeMicros c.transport := by
  cases ht : c.transport with
  | gpio4 => simp [writeByteTrace, ht, minTime_append, minTime_gpioWriteTrace, writeMicros]
  | gpio8 => simp [writeByteTrace, ht, minTime_gpioWriteTrace, writeMicros]
  | i2c => simp [writeByteTrace, ht, i2cWriteTrace, minTime, writeMicros]

theorem minTime_readByteTrace (s : State) (rs : Level) : minTime (readByteTrace s rs) = readMicros s.cfg.transport := by
  cases ht : s.cfg.transport with
  | gpio4 => simp [readByteTrace, ht, minTime_append, minTime_gpioReadTrace, readMicros]
  | gpio8 => simp [readByteTrace, ht, minTime_gpioReadTrace, readMicros]
  | i2c => simp [readByteTrace, ht, i2cReadTrace, minTime, readMicros]

theorem exec_write_minTime {s : State} (hs : s.inFlight = none) (hm : s.cfg.waitMode = .fixed) {i : Instr}
    {e : Instruction} (h : writeInstruction i = some e) :
    ∃ t, exec i s = .next t ∧ minTime t.opTrace =
      writeMicros s.cfg.transport + if i = .clear ∨ i = .home then 1520 else s.cfg.tInstr := by
  obtain ⟨t, k, ht, htr, hk⟩ := exec_write_opTrace hs h
  obtain ⟨-, rfl⟩ := hk hm
  exact ⟨t, ht, by rw [htr, minTime_append, minTime_delayTrace, minTime_writeByteTrace, writeInstruction_minDelay h]⟩

theorem exec_read_minTime {s : State} (hs : s.inFlight = none) (hm : s.cfg.waitMode = .fixed) (hr : s.cfg.canRead = true)
    {i : Instr} (h : i.isRead = true) :
    ∃ t, exec i s = .next t ∧ minTime t.opTrace =
      readMicros s.cfg.transport + if i = .rddata then s.cfg.tInstr else 0 := by
  obtain ⟨t, k, ht, htr, hk⟩ := exec_read_opTrace hs hr h
  obtain ⟨-, rfl⟩ := hk (.inr hm)
  exact ⟨t, ht, by rw [htr, minTime_append, minTime_delayTrace, minTime_readByteTrace]⟩

theorem exec_init_minTime {s : State} (hs : s.inFlight = none) :
    ∃ t, exec .init s = .next t ∧ minTime t.opTrace = 40000 + 4100 + 100 + 2 * s.cfg.tInstr +
      (match s.cfg.transport with | .gpio8 => 8 | .gpio4 => 8 | .i2c => 0) := by
  cases ht : s.cfg.transport with
  | gpio4 =>
    refine ⟨_, initCompletesOnGpio4 s hs ht, ?_⟩
    simp [State.opTrace, minTime_append, minTime_gpioWriteTrace, minTime]
    omega
  | gpio8 =>
    refine ⟨_, initCompletesOnGpio8 s hs ht, ?_⟩
    simp [State.opTrace, minTime_append, minTime_gpioWriteTrace, minTime]
    omega
  | i2c =>
    refine ⟨_, initCompletesOnI2c s hs ht, ?_⟩
    simp [State.opTrace, minTime_append, i2cWriteTrace, minTime]
    omega

/-- Settles O37: the time of the transfers and the time of the wait. -/
theorem leastTimeOfEachOperation : Obligations.LeastTimeOfEachOperation := by
  intro s i hs hm hwf hr
  cases i with
  | clear => exact exec_write_minTime hs hm (i := .clear) rfl
  | home => exact exec_write_minTime hs hm (i := .home) rfl
  | entry p q => exact exec_write_minTime hs hm (i := .entry p q) rfl
  | display p q r => exact exec_write_minTime hs hm (i := .display p q r) rfl
  | shift p q => exact exec_write_minTime hs hm (i := .shift p q) rfl
  | funcset p q r => exact exec_write_minTime hs hm (i := .funcset p q r) rfl
  | setcg a =>
    obtain ⟨h0, h⟩ := (wf_setcg_iff a).mp hwf
    exact exec_write_minTime hs hm (writeInstruction_setcg h0 h)
  | setdd a =>
    obtain ⟨h0, h⟩ := (wf_setdd_iff a).mp hwf
    exact exec_write_minTime hs hm (writeInstruction_setdd h0 h)
  | wrdata v => exact exec_write_minTime hs hm (i := .wrdata v) rfl
  | rddata => exact exec_read_minTime hs hm (hr rfl) (i := .rddata) rfl
  | rdstat => exact exec_read_minTime hs hm (hr rfl) (i := .rdstat) rfl
  | init => exact exec_init_minTime hs

end Sys2Proof.Machine

namespace Sys2Proof.Machine

/-! ## The pins along a trace -/

/-- The trace takes the pins from `p` to `q` and shows the transfers `ts` on the way. -/
def PinRun (c : Cfg) (p : Pins) (u : List Event) (q : Pins) (ts : List Transfer) : Prop :=
  u.foldl (pinsAfter c) p = q ∧ observe c p u = ts

theorem observe_append (c : Cfg) (p : Pins) (u w : List Event) :
    observe c p (u ++ w) = observe c p u ++ observe c (u.foldl (pinsAfter c) p) w := by
  induction u generalizing p with
  | nil => rfl
  | cons ev u ih =>
    simp only [List.cons_append, observe, List.foldl_cons, ih]
    split <;> rfl

theorem PinRun.append {c : Cfg} {p q r : Pins} {u w : List Event} {ts ts' : List Transfer} (hu : PinRun c p u q ts)
    (hw : PinRun c q w r ts') : PinRun c p (u ++ w) r (ts ++ ts') := by
  obtain ⟨rfl, rfl⟩ := hu
  obtain ⟨rfl, rfl⟩ := hw
  exact ⟨List.foldl_append, observe_append c p u w⟩

/-- The enable pulse that ends a GPIO write. -/
theorem pinRun_pulse (c : Cfg) {p : Pins} (h : p.e = false) :
    PinRun c p [.delay 1, .set .e true, .delay 1, .set .e false] p [⟨p.rs, p.rw, p.db⟩] := by
  cases p
  cases h
  exact ⟨rfl, rfl⟩

theorem pinRun_controlTrace (c : Cfg) {p : Pins} (h : p.e = false) (rs rw : Level) :
    PinRun c p (controlTrace c rs rw) { p with rs := rs, rw := if c.hasRW then rw else p.rw } [] := by
  cases p
  cases h
  cases hc : c.hasRW <;> simp [PinRun, controlTrace, hc, pinsAfter, observe]

/-! ## The data lines -/

theorem withBit_getLsbD (k j : Fin 8) (b : Level) (v : Byte) :
    (withBit v k b).getLsbD j = if j = k then b else v.getLsbD j := by
  have hone : (1#8 <<< k.val).getLsbD j = decide (j = k) := by revert k j; decide
  cases b <;>
    simp only [withBit, if_pos, Bool.false_eq_true, if_false, BitVec.getLsbD_or, BitVec.getLsbD_and, BitVec.getLsbD_not, hone,
      j.isLt, decide_true, Bool.true_and] <;>
    by_cases hjk : j = k <;> simp [hjk]

/-- The data pins after the lines are given the bits of `v`. -/
def drivenByte (v : Byte) (lines : List (Fin 8)) (d : Byte) : Byte :=
  lines.foldl (fun d k => withBit d k (v.getLsbD k)) d

theorem drivenByte_getLsbD (v : Byte) (lines : List (Fin 8)) (d : Byte) (j : Fin 8) :
    (drivenByte v lines d).getLsbD j = if j ∈ lines then v.getLsbD j else d.getLsbD j := by
  induction lines generalizing d with
  | nil => rfl
  | cons k ks ih =>
    rw [drivenByte, List.foldl_cons, ← drivenByte, ih, withBit_getLsbD]
    by_cases hj : j ∈ ks <;> by_cases hk : j = k <;> simp [hj, hk]

/-- A byte that the configuration's data lines carry whole: the pins it does not drive read 0. -/
def OnDataLines (c : Cfg) (v : Byte) : Prop := ∀ k, k ∉ dataLines c → v.getLsbD k.val = false

theorem onDataLines_gpio8 {c : Cfg} (h : c.transport = .gpio8) (v : Byte) : OnDataLines c v := by
  intro k hk
  rw [dataLines_gpio8 h] at hk
  exact absurd hk (by revert k; decide)

theorem onDataLines_gpio4 {c : Cfg} (h : c.transport = .gpio4) (d : Nibble) : OnDataLines c (d ++ 0#4) := by
  intro k hk
  rw [dataLines_gpio4 h] at hk
  revert d k
  decide

theorem drivenByte_dataLines {c : Cfg} {v d : Byte} (hv : OnDataLines c v) (hd : OnDataLines c d) :
    drivenByte v (dataLines c) d = v := by
  refine BitVec.eq_of_getLsbD_eq fun i hi => ?_
  have hbit := drivenByte_getLsbD v (dataLines c) d ⟨i, hi⟩
  split at hbit
  · exact hbit
  · next hk => exact hbit.trans ((hd _ hk).trans (hv _ hk).symm)

theorem pinRun_driveTrace (c : Cfg) {p : Pins} (h : p.e = false) (a : Dir) (k : Fin 8) (b : Level) :
    PinRun c p (driveTrace a k b) { p with db := withBit p.db k b } [] := by
  cases a <;> simp [PinRun, driveTrace, pinsAfter, observe, h]

theorem pinRun_driveTraces (c : Cfg) {p : Pins} (h : p.e = false) (dir : Vector Dir 8) (v : Byte)
    (lines : List (Fin 8)) :
    PinRun c p (lines.map fun k => driveTrace dir[k] k (v.getLsbD k)).flatten { p with db := drivenByte v lines p.db } [] := by
  induction lines generalizing p with
  | nil => exact ⟨rfl, rfl⟩
  | cons k ks ih => exact (pinRun_driveTrace c h dir[k] k (v.getLsbD k)).append (ih (p := { p with db := _ }) h)

theorem pinRun_releaseTraces (c : Cfg) (p : Pins) (dir : Vector Dir 8) (lines : List (Fin 8)) (h : p.e = false) :
    PinRun c p (lines.map fun k => releaseTrace dir[k] k).flatten p [] := by
  induction lines with
  | nil => exact ⟨rfl, rfl⟩
  | cons k ks ih =>
    have hk : PinRun c p (releaseTrace dir[k] k) p [] := by
      unfold releaseTrace
      split <;> simp [PinRun, pinsAfter, observe, h]
    exact hk.append ih

theorem pinRun_gets (c : Cfg) (p : Pins) (v : Byte) (lines : List (Fin 8)) :
    PinRun c p (lines.map fun k => Event.get (.db k) (v.getLsbD k)) p [] := by
  induction lines with
  | nil => exact ⟨rfl, rfl⟩
  | cons k ks ih =>
    have hk : PinRun c p [.get (.db k) (v.getLsbD k)] p [] := by simp [PinRun, pinsAfter, observe]
    exact hk.append ih

/-! ## The pins of one transfer -/

/-- The pins between two transfers: enable low, and what the GPIO adapter does not own still low. -/
structure PinsAtRest (c : Cfg) (p : Pins) : Prop where
  enable : p.e = false
  rw     : c.transport ≠ .i2c → c.hasRW = false → p.rw = false
  db     : c.transport ≠ .i2c → OnDataLines c p.db

theorem PinsAtRest.low (c : Cfg) : PinsAtRest c .low :=
  ⟨rfl, fun _ _ => rfl, fun _ _ _ => BitVec.getLsbD_zero⟩

theorem pinRun_gpioWriteTrace {c : Cfg} (h : c.transport ≠ .i2c) {p : Pins} (hp : PinsAtRest c p) (dir : Vector Dir 8)
    (rs : Level) {v : Byte} (hv : OnDataLines c v) :
    PinRun c p (gpioWriteTrace c dir (dataLines c) rs v) ⟨rs, false, false, v⟩ [⟨rs, false, v⟩] := by
  have hrw : (if c.hasRW then false else p.rw) = false := by
    cases hc : c.hasRW with
    | true => rfl
    | false => exact hp.rw h hc
  have hcontrol := pinRun_controlTrace c hp.enable rs false
  have hdrive := pinRun_driveTraces c (p := ⟨rs, false, p.e, p.db⟩) hp.enable dir v (dataLines c)
  rw [hrw, hp.enable] at hcontrol
  rw [drivenByte_dataLines hv (hp.db h), hp.enable] at hdrive
  exact (hcontrol.append hdrive).append (pinRun_pulse c rfl)

theorem pinRun_gpioReadTrace {c : Cfg} (hrw : c.hasRW = true) {p : Pins} (he : p.e = false) (dir : Vector Dir 8)
    (lines : List (Fin 8)) (rs : Level) (v : Byte) :
    PinRun c p (gpioReadTrace c dir lines rs v) ⟨rs, true, false, p.db⟩ [⟨rs, true, p.db⟩] := by
  have hcontrol := pinRun_controlTrace c he rs true
  rw [hrw, if_pos rfl, he] at hcontrol
  have hrelease := pinRun_releaseTraces c ⟨rs, true, false, p.db⟩ dir lines rfl
  have hrise : PinRun c ⟨rs, true, false, p.db⟩ [.delay 1, .set .e true, .delay 1] ⟨rs, true, true, p.db⟩ [] := ⟨rfl, rfl⟩
  have hfall : PinRun c ⟨rs, true, true, p.db⟩ [.set .e false] ⟨rs, true, false, p.db⟩ [⟨rs, true, p.db⟩] := ⟨rfl, rfl⟩
  exact (((hcontrol.append hrelease).append hrise).append (pinRun_gets c _ v lines)).append hfall

/-- An expander byte puts its fields on the pins (R25, R171). -/
theorem pinsAfter_expanderByte {c : Cfg} (h : c.map.injective = true) (p : Pins) (a : BusAddr) (rs rw e : Level)
    (d : Nibble) : pinsAfter c p (.bw a (expanderByte c rs rw e d)) = ⟨rs, rw, e, d ++ 0#4⟩ := by
  rw [pinsAfter, expanderByte_rs h, expanderByte_rw h, expanderByte_e h, expanderNibble_expanderByte h]

theorem pinRun_i2cWriteTrace {c : Cfg} (h : c.map.injective = true) {p : Pins} (he : p.e = false) (rs : Level)
    (d : Nibble) : PinRun c p (i2cWriteTrace c rs d) ⟨rs, false, false, d ++ 0#4⟩ [⟨rs, false, d ++ 0#4⟩] := by
  simp [PinRun, i2cWriteTrace, observe, pinsAfter_expanderByte h, he]

theorem pinRun_i2cReadTrace {c : Cfg} (h : c.map.injective = true) {p : Pins} (he : p.e = false) (rs : Level) (v : Byte) :
    PinRun c p (i2cReadTrace c rs v) ⟨rs, true, false, 0xF#4 ++ 0#4⟩ [⟨rs, true, 0xF#4 ++ 0#4⟩] := by
  have hread (q : Pins) : pinsAfter c q (.br c.i2cAddr v) = q := rfl
  have hdelay (q : Pins) : pinsAfter c q (.delay 4) = q := rfl
  simp [PinRun, i2cReadTrace, observe, pinsAfter_expanderByte h, hread, hdelay, he]

end Sys2Proof.Machine

namespace Sys2Proof.Machine

/-! ## What a trace shows -/

/-- From any pins at rest the trace shows, of each transfer what `g` tells, exactly `as`, and leaves the pins at rest. -/
def Shows {α : Type} (g : Transfer → α) (c : Cfg) (u : List Event) (as : List α) : Prop :=
  ∀ p, PinsAtRest c p → ∃ q ts, PinsAtRest c q ∧ PinRun c p u q ts ∧ ts.map g = as

/-- RS and RW of a transfer, which are all that the engine drives in a read. -/
def Transfer.control (x : Transfer) : Level × Level := (x.rs, x.rw)

section
variable {α : Type} {g : Transfer → α} {c : Cfg}

theorem Shows.append {u w : List Event} {as bs : List α} (hu : Shows g c u as) (hw : Shows g c w bs) :
    Shows g c (u ++ w) (as ++ bs) := by
  intro p hp
  obtain ⟨q, ts, hq, hrun, rfl⟩ := hu p hp
  obtain ⟨r, ts', hr, hrun', rfl⟩ := hw q hq
  exact ⟨r, ts ++ ts', hr, hrun.append hrun', List.map_append⟩

theorem Shows.observe_low {u : List Event} {as : List α} (h : Shows g c u as) : (observe c .low u).map g = as := by
  obtain ⟨q, ts, -, ⟨-, rfl⟩, has⟩ := h .low (.low c)
  exact has

theorem Shows.observe_length {u : List Event} {as : List α} (h : Shows g c u as) :
    (observe c .low u).length = as.length := by
  rw [← h.observe_low, List.length_map]

/-- What the trace of an operation shows, read off the traces before and after it. -/
theorem Shows.opTrace {s t : State} {u : List Event} {as : List α} (h : Shows g c u as) (ht : t.trace = s.trace ++ u)
    (ho : t.opStart = s.trace.length) : Shows g c t.opTrace as := by
  rwa [opTrace_of_grown ht ho]

theorem shows_delayTrace (n : Nat) : Shows g c (delayTrace n) [] := by
  intro p hp
  refine ⟨p, [], hp, ?_, rfl⟩
  unfold delayTrace
  split <;> simp [PinRun, pinsAfter, observe]

theorem Shows.appendDelay {u : List Event} {as : List α} (h : Shows g c u as) (n : Nat) :
    Shows g c (u ++ delayTrace n) as := by
  simpa using h.append (shows_delayTrace n)

theorem shows_delay (n : Nat) : Shows g c [.delay n] [] := fun p hp =>
  ⟨p, [], hp, ⟨rfl, by simp [observe, pinsAfter]⟩, rfl⟩

end

section
variable {c : Cfg}

theorem shows_gpioWriteTrace (h : c.transport ≠ .i2c) (dir : Vector Dir 8) (rs : Level) {v : Byte}
    (hv : OnDataLines c v) : Shows id c (gpioWriteTrace c dir (dataLines c) rs v) [⟨rs, false, v⟩] := fun _ hp =>
  ⟨_, _, ⟨rfl, fun _ _ => rfl, fun _ => hv⟩, pinRun_gpioWriteTrace h hp dir rs hv, List.map_id _⟩

theorem shows_i2cWriteTrace (ht : c.transport = .i2c) (h : c.map.injective = true) (rs : Level) (d : Nibble) :
    Shows id c (i2cWriteTrace c rs d) [⟨rs, false, d ++ 0#4⟩] := fun _ hp =>
  ⟨_, _, ⟨rfl, fun hg => absurd ht hg, fun hg => absurd ht hg⟩, pinRun_i2cWriteTrace h hp.enable rs d, List.map_id _⟩

theorem shows_gpioReadTrace (hrw : c.hasRW = true) (dir : Vector Dir 8) (lines : List (Fin 8)) (rs : Level) (v : Byte) :
    Shows Transfer.control c (gpioReadTrace c dir lines rs v) [(rs, true)] := fun p hp =>
  ⟨⟨rs, true, false, p.db⟩, _, ⟨rfl, fun _ hc => (by cases hrw.symm.trans hc), hp.db⟩,
    pinRun_gpioReadTrace hrw hp.enable dir lines rs v, rfl⟩

theorem shows_i2cReadTrace (ht : c.transport = .i2c) (h : c.map.injective = true) (rs : Level) (v : Byte) :
    Shows Transfer.control c (i2cReadTrace c rs v) [(rs, true)] := fun _ hp =>
  ⟨_, _, ⟨rfl, fun hg => absurd ht hg, fun hg => absurd ht hg⟩, pinRun_i2cReadTrace h hp.enable rs v, rfl⟩

/-- A nibble write on DB7..DB4. -/
theorem shows_gpio4WriteTrace (ht : c.transport = .gpio4) (dir : Vector Dir 8) (rs : Level) (d : Nibble) :
    Shows id c (gpioWriteTrace c dir [4, 5, 6, 7] rs (d ++ 0#4)) [⟨rs, false, d ++ 0#4⟩] := by
  have h := shows_gpioWriteTrace (c := c) (by simp [ht]) dir rs (onDataLines_gpio4 ht d)
  rwa [dataLines_gpio4 ht] at h

/-- A byte write on DB7..DB0. -/
theorem shows_gpio8WriteTrace (ht : c.transport = .gpio8) (dir : Vector Dir 8) (rs : Level) (v : Byte) :
    Shows id c (gpioWriteTrace c dir [0, 1, 2, 3, 4, 5, 6, 7] rs v) [⟨rs, false, v⟩] := by
  have h := shows_gpioWriteTrace (c := c) (by simp [ht]) dir rs (onDataLines_gpio8 ht v)
  rwa [dataLines_gpio8 ht] at h

end

/-! ## What an operation shows -/

theorem shows_writeByteTrace {c : Cfg} (hwf : c.wf = true) (dir : Vector Dir 8) (rs : Level) (v : Byte) :
    Shows id c (writeByteTrace c dir rs v) (splitByte c.transport rs false v) := by
  cases ht : c.transport with
  | gpio4 =>
    simp only [writeByteTrace, ht, splitByte]
    exact (shows_gpio4WriteTrace ht dir rs _).append (shows_gpio4WriteTrace ht _ rs _)
  | gpio8 =>
    simp only [writeByteTrace, ht, splitByte]
    exact shows_gpio8WriteTrace ht dir rs v
  | i2c =>
    have hmap := Cfg.wf_map_injective hwf ht
    simp only [writeByteTrace, ht, splitByte]
    exact (shows_i2cWriteTrace ht hmap rs _).append (shows_i2cWriteTrace ht hmap rs _)

theorem shows_readByteTrace {s : State} (hwf : s.cfg.wf = true) (hr : s.cfg.canRead = true) (rs : Level) :
    Shows Transfer.control s.cfg (readByteTrace s rs)
      (List.replicate (if s.cfg.transport = .gpio8 then 1 else 2) (rs, true)) := by
  cases ht : s.cfg.transport with
  | gpio4 =>
    have hrw := Cfg.canRead_hasRW hr (by simp [ht])
    simp only [readByteTrace, ht]
    exact (shows_gpioReadTrace hrw _ _ rs _).append (shows_gpioReadTrace hrw _ _ rs _)
  | gpio8 =>
    have hrw := Cfg.canRead_hasRW hr (by simp [ht])
    simp only [readByteTrace, ht]
    exact shows_gpioReadTrace hrw _ _ rs _
  | i2c =>
    have hmap := Cfg.wf_map_injective hwf ht
    simp only [readByteTrace, ht]
    exact (shows_i2cReadTrace ht hmap rs _).append (shows_i2cReadTrace ht hmap rs _)

theorem exec_write_shows {s : State} (hwf : s.cfg.wf = true) (hs : s.inFlight = none) {i : Instr} {e : Instruction}
    (h : writeInstruction i = some e) :
    ∃ t, exec i s = .next t ∧
      Shows id s.cfg t.opTrace (splitByte s.cfg.transport (rsLevel e.registerSelect) false e.opcode) ∧
      (s.cfg.waitMode = .fixed → t.inFlight = none) := by
  obtain ⟨t, k, ht, htr, hk⟩ := exec_write_opTrace hs h
  refine ⟨t, ht, ?_, fun hm => (hk hm).1⟩
  rw [htr]
  exact (shows_writeByteTrace hwf s.dir _ _).appendDelay k

theorem exec_read_shows {s : State} (hwf : s.cfg.wf = true) (hs : s.inFlight = none) (hr : s.cfg.canRead = true)
    {i : Instr} (h : i.isRead = true) :
    ∃ t, exec i s = .next t ∧
      Shows Transfer.control s.cfg t.opTrace
        (List.replicate (if s.cfg.transport = .gpio8 then 1 else 2) (decide (i = .rddata), true)) ∧
      (i = .rdstat ∨ s.cfg.waitMode = .fixed → t.inFlight = none) := by
  obtain ⟨t, k, ht, htr, hk⟩ := exec_read_opTrace hs hr h
  refine ⟨t, ht, ?_, fun hm => (hk hm).1⟩
  rw [htr]
  exact (shows_readByteTrace hwf hr _).appendDelay k

/-- The power-up sequence as four writes with their waits (R241 to R243). -/
theorem shows_fourWrites {c : Cfg} {w₁ w₂ w₃ w₄ : List Event} {x₁ x₂ x₃ x₄ : Transfer} (h₁ : Shows id c w₁ [x₁])
    (h₂ : Shows id c w₂ [x₂]) (h₃ : Shows id c w₃ [x₃]) (h₄ : Shows id c w₄ [x₄]) {n₀ n₁ n₂ n₃ n₄ : Nat} :
    Shows id c ([.delay n₀] ++ w₁ ++ [.delay n₁] ++ w₂ ++ [.delay n₂] ++ w₃ ++ delayTrace n₃ ++ w₄ ++ delayTrace n₄)
      [x₁, x₂, x₃, x₄] :=
  have hpriming := ((((shows_delay n₀).append h₁).append (shows_delay n₁)).append h₂).append (shows_delay n₂)
  (((hpriming.append h₃).appendDelay n₃).append h₄).appendDelay n₄

theorem exec_init_shows {s : State} (hwf : s.cfg.wf = true) (hs : s.inFlight = none) :
    ∃ t, exec .init s = .next t ∧ Shows id s.cfg t.opTrace (initTransfers s.cfg.transport) ∧ t.inFlight = none := by
  cases ht : s.cfg.transport with
  | gpio4 =>
    have h3 (dir : Vector Dir 8) :
        Shows id s.cfg (gpioWriteTrace s.cfg dir [4, 5, 6, 7] false 0x30#8) [⟨false, false, 0x30#8⟩] :=
      shows_gpio4WriteTrace ht dir false 0x3#4
    have h2 (dir : Vector Dir 8) :
        Shows id s.cfg (gpioWriteTrace s.cfg dir [4, 5, 6, 7] false 0x20#8) [⟨false, false, 0x20#8⟩] :=
      shows_gpio4WriteTrace ht dir false 0x2#4
    exact ⟨_, initCompletesOnGpio4 s hs ht, (shows_fourWrites (h3 _) (h3 _) (h3 _) (h2 _)).opTrace
      (by simp only [List.append_assoc]; rfl) rfl, hs⟩
  | gpio8 =>
    have h (dir : Vector Dir 8) := shows_gpio8WriteTrace ht dir false 0x30#8
    exact ⟨_, initCompletesOnGpio8 s hs ht, (shows_fourWrites (h _) (h _) (h _) (h _)).opTrace
      (by simp only [List.append_assoc]; rfl) rfl, hs⟩
  | i2c =>
    have h := shows_i2cWriteTrace ht (Cfg.wf_map_injective hwf ht) false
    exact ⟨_, initCompletesOnI2c s hs ht, (shows_fourWrites (h 0x3#4) (h 0x3#4) (h 0x3#4) (h 0x2#4)).opTrace
      (by simp only [List.append_assoc]; rfl) rfl, hs⟩

/-- Settles O54: the word's fields are the instruction's, and a byte write shows them; only INIT has transfers and no
word. -/
theorem wiresCarryTheOperation : Obligations.WiresCarryTheOperation := by
  intro s i ts hwf hs hi h
  unfold encodeTransfers at h
  split at h
  · next w hw =>
    obtain ⟨e, he, rfl⟩ := writeInstruction_of_encode hi hw
    obtain ⟨hrs, hrw⟩ := Laws.Direction.transferWord_control (rsLevel e.registerSelect) false e.opcode
    rw [hrs, hrw, transferWord_byte] at h
    obtain ⟨t, ht, hshows, hf⟩ := exec_write_shows hwf hs he
    exact ⟨t, ht, (List.map_id _).symm.trans (hshows.observe_low.trans (Option.some.inj h)), hf⟩
  · obtain ⟨rfl, hts⟩ := Option.ite_none_right_eq_some.mp h
    obtain ⟨t, ht, hshows, hf⟩ := exec_init_shows hwf hs
    exact ⟨t, ht, (List.map_id _).symm.trans (hshows.observe_low.trans (Option.some.inj hts)), fun _ => hf⟩

/-- Settles O55: RS and RW of the read's transfers; the data pins hold what was there before. -/
theorem wiresCarryTheRead : Obligations.WiresCarryTheRead := by
  intro s i hwf hs hr hi
  obtain ⟨t, ht, hshows, hf⟩ := exec_read_shows hwf hs hr hi
  exact ⟨t, ht, hshows.observe_low, hf⟩

/-! ## Transfers stay paired (R59) -/

theorem splitByte_even {tr : Transport} (h : tr ≠ .gpio8) (rs rw : Level) (v : Byte) :
    2 ∣ (splitByte tr rs rw v).length := by
  cases tr with
  | gpio8 => exact absurd rfl h
  | _ => exact Nat.dvd_refl 2

theorem initTransfers_even (tr : Transport) : 2 ∣ (initTransfers tr).length := by
  cases tr <;> exact ⟨2, rfl⟩

theorem readTransfers_even {tr : Transport} (h : tr ≠ .gpio8) (x : Level × Level) :
    2 ∣ (List.replicate (if tr = .gpio8 then 1 else 2) x).length := by
  rw [List.length_replicate, if_neg h]

/-- An operation adds its own trace to the trace. -/
theorem exec_trace {i : Instr} {s t : State} (h : exec i s = .next t) : t.trace = s.trace ++ t.opTrace := by
  obtain ⟨-, rfl⟩ := exec_next h
  obtain ⟨-, ho, u, hu⟩ := opBody_grows i s.begin
  rw [opTrace_of_grown (s := s) hu ho]
  exact hu

theorem exec_paired {s t : State} {i : Instr} (hwf : s.cfg.wf = true) (hg : s.cfg.transport ≠ .gpio8)
    (h : exec i s = .next t) : 2 ∣ (observe s.cfg .low t.opTrace).length := by
  obtain ⟨hs, ht⟩ := exec_next h
  obtain ⟨f, he⟩ | ⟨-, -, e, he⟩ | ⟨-, hi, hr⟩ | ⟨-, rfl⟩ := operation_cases s.cfg i
  · have hnone : t.opTrace = [] := by
      rw [ht, opBody_of_error (s := s.begin) he]
      exact List.drop_length
    rw [hnone]
    exact Nat.dvd_zero 2
  · obtain ⟨t', ht', hshows, -⟩ := exec_write_shows hwf hs he
    cases ht'.symm.trans h
    rw [hshows.observe_length]
    exact splitByte_even hg ..
  · obtain ⟨t', ht', hshows, -⟩ := exec_read_shows hwf hs hr hi
    cases ht'.symm.trans h
    rw [hshows.observe_length]
    exact readTransfers_even hg _
  · obtain ⟨t', ht', hshows, -⟩ := exec_init_shows hwf hs
    cases ht'.symm.trans h
    rw [hshows.observe_length]
    exact initTransfers_even _

theorem pollOnce_trace {v : Value} {s t : State} (h : pollOnce v s = .next t) :
    s.cfg.canRead = true ∧ t.trace = s.trace ++ readByteTrace s false := by
  cases hr : s.cfg.canRead with
  | false =>
    obtain ⟨hr', -, -⟩ | ⟨hr', -, -⟩ | ⟨-, hp⟩ := pollOnce_cases v s
    · cases hr.symm.trans hr'
    · cases hr.symm.trans hr'
    · cases hp.symm.trans h
  | true =>
    cases (pollOnce_eq hr v).symm.trans h
    refine ⟨rfl, ?_⟩
    split <;> rfl

/-- Settles O56: a poll iteration is one byte read, an operation a byte or the power-up sequence, and each shows an even
number of transfers on a 4-bit path. -/
theorem transfersStayPaired : Obligations.TransfersStayPaired := by
  intro s t h hg hstep
  obtain ⟨v, -, hp⟩ | ⟨-, -, rfl⟩ | ⟨c, rest, i, -, -, -, he⟩ := step_next hstep
  · obtain ⟨hr, htr⟩ := pollOnce_trace hp
    refine ⟨_, htr, ?_⟩
    rw [(shows_readByteTrace h.wf hr false).observe_length]
    exact readTransfers_even hg _
  · exact ⟨[], (List.append_nil _).symm, Nat.dvd_zero 2⟩
  · have htr : t.trace = s.trace ++ t.opTrace := exec_trace (s := { s with calls := rest }) he
    exact ⟨t.opTrace, htr, exec_paired (s := { s with calls := rest }) h.wf hg he⟩

end Sys2Proof.Machine
